-- ==== Sys2Proof/Word.lean ====
section
/-! DEFINITION. The plain data of the block's interface: operand widths, levels, protocol identifiers,
transmit segments and what stands on the command ports. No arithmetic that a rule states is here
(the rules' arithmetic is in `Machine/Operands.lean`). Section names refer to the files of spec/. -/

namespace Sys2Proof

/-- The `pin` operand of INIT and the register `rx_pin`: `PIN_W = 8` bits (R8, R95). -/
abbrev Pin := BitVec 8

/-- A carrier frequency in kilohertz, the `khz` operand and the register `tx_khz`: `KHZ_W = 8` bits (R8, R95). -/
abbrev Khz := BitVec 8

/-- A duration in microseconds, operand of MARK and SPACE and element of the transmit source space:
`TXDUR_W = 16` bits (R8, R60 (b)). -/
abbrev Dur := BitVec 16

/-- The `count` operand of SEND_RAW: `COUNT_W = 8` bits (R8, R95). -/
abbrev Count := BitVec 8

/-- A bit count, the `nbits` operand of SEND_A and SEND_B and the `nbits` field of a result:
`NBITS_W = 8` bits (R8, R37). -/
abbrev NBits := BitVec 8

/-- The level of a tick, already translated from the electrical pin level (R16), and the kind of a
header element (R188) or of a transmitted segment (R93). -/
inductive Level where
  | space
  | mark
  deriving DecidableEq, Repr

/-- The protocol identifier, "enumerated, including an UNKNOWN sentinel" (R37, R91). The fourth code is
reserved and never produced (R91): there is no constructor for it. -/
inductive Proto where
  | unknown
  | protoA
  | protoB
  deriving DecidableEq, Repr

/-- One element `(on, dur_us, khz)` of the transmit trace (R30). -/
structure Segment where
  on  : Bool
  dur : Dur
  khz : Khz
  deriving DecidableEq, Repr

/-- What stands on the command interface (R94, R95): the opcode on `cmd_op`, or none where the tick strobe
takes its place (format E), and the numbers on the operand ports `arg0`, `arg1`, `arg2`. -/
structure PortWord where
  op   : Option Nat
  arg0 : Nat
  arg1 : Nat
  arg2 : Nat
  deriving DecidableEq, Repr

end Sys2Proof
end

