-- ==== Sys2Proof/Config.lean ====
section
/-! DEFINITION. The configuration record `Cfg` of 00_scope.md R8, the profile tables of
42_protocol_matchers.md R188, their defaults, the three numbers the source fixes, and the free values.
The configuration is fixed for a machine: `State` carries it in a field that no step writes (log entry 1),
so that a claim holds for every configuration unless it names one. -/

namespace Sys2Proof

/-- `USEC_PER_TICK`, the tick period in microseconds, fixed by the source (R8). -/
def usecPerTick : Nat := 50

/-- `MIN_RAW`, the least `rawlen` of an UNKNOWN result, fixed by the source (R8, R164). -/
def minRaw : Nat := 6

/-- `N_PROTO`, the number of matchers, tried A then B, fixed by the source (R8). -/
def nProto : Nat := 2

/-- One element `(kind, us)` of a profile's header (R188). -/
structure HeaderElem where
  kind : Level
  us   : Dur
  deriving DecidableEq, Repr

/-- The constant table of one protocol (R188). Durations are `TXDUR_W` bits and the carrier is `KHZ_W` bits
by their types, which is R189's "every duration is below `2^TXDUR_W`". -/
structure Profile where
  id         : Proto
  header     : List HeaderElem
  bitSpaceUs : Dur
  oneMarkUs  : Dur
  zeroMarkUs : Dur
  carrierKhz : Khz
  deriving DecidableEq, Repr

/-- One entry of a table of windows: the bounds `lo(kind, us)` and `hi(kind, us)` in ticks, in place of those of R181's formula. -/
structure WindowEntry where
  kind : Level
  us   : Dur
  lo   : Nat
  hi   : Nat
  deriving DecidableEq, Repr

/-- `TX_END_RX_EN`: whether the end of a send puts the receive tick back (R8, R219). -/
inductive TxEnd where
  | restore
  | leaveOff
  deriving DecidableEq, Repr

/-- The implementation parameters of R8 that the source leaves without a value. -/
structure Cfg where
  /-- `GAP_TICKS` -/
  gapTicks     : Nat
  /-- `RAWBUF`, entries of the capture buffer -/
  rawbufCap    : Nat
  /-- `TICK_W`, width in bits of `timer` and of an entry -/
  tickW        : Nat
  /-- `VALUE_W`, width in bits of the decoded and of the sent value -/
  valueW       : Nat
  /-- `TOL_PCT` -/
  tolPct       : Nat
  /-- `MARK_EXCESS_US` -/
  markExcessUs : Nat
  /-- `PROFILE_A` -/
  profileA     : Profile
  /-- `PROFILE_B` -/
  profileB     : Profile
  /-- `RX_MARK_LEVEL`: the electrical level of the receive pin that means MARK, true for high -/
  rxMarkLevel  : Bool
  /-- `DUTY_NUM` -/
  dutyNum      : Nat
  /-- `DUTY_DEN` -/
  dutyDen      : Nat
  /-- `TX_END_RX_EN` -/
  txEndRxEn    : TxEnd
  /-- the configuration function that R181 asks for, as plain data: bounds that stand in the place of its formula, for a finite
  number of kinds and constants, which is every function on them (log entry 20) -/
  windowTable  : List WindowEntry
  deriving DecidableEq, Repr

/-- The default `PROFILE_A` (R190). -/
def defaultProfileA : Profile where
  id := .protoA
  header := [⟨.mark, 3000⟩, ⟨.space, 6000⟩, ⟨.mark, 3000⟩]
  bitSpaceUs := 2000
  oneMarkUs := 2000
  zeroMarkUs := 1000
  carrierKhz := 38

/-- The default `PROFILE_B` (R191). -/
def defaultProfileB : Profile where
  id := .protoB
  header := [⟨.mark, 2400⟩]
  bitSpaceUs := 600
  oneMarkUs := 1200
  zeroMarkUs := 600
  carrierKhz := 40

/-- The default configuration: the default column of R8's table. -/
def Cfg.default : Cfg where
  gapTicks := 200
  rawbufCap := 76
  tickW := 16
  valueW := 32
  tolPct := 25
  markExcessUs := 100
  profileA := defaultProfileA
  profileB := defaultProfileB
  rxMarkLevel := false
  dutyNum := 1
  dutyDen := 3
  txEndRxEn := .restore
  windowTable := []

/-- `LEN_W`, the width of `rawlen`: the smallest `w` with `2^w > RAWBUF` (R8). -/
def Cfg.lenW (c : Cfg) : Nat := Nat.size c.rawbufCap

/-- FREE VALUE (log entry 8, DESIGN CHOICE): the `nbits` field of a READY result whose bit count does not fit its
`NBITS_W = 8` bits. R186 says the count fits for `RAWBUF <= 511` and gives no value beyond. R167 makes the result a function of
the captured entries and the profiles, so that it repeats; it is one of the whole configuration, the whole profile that
accepted and the entries, so that nothing relates it between two configurations or two profiles. -/
opaque Config.wideBitCount : Cfg → Profile → List Nat → NBits

/-- FREE VALUE (log entry 4, DESIGN CHOICE): what an element of the host's array reads as that the host never stored, by its index. R66
reads the array and says nothing of who filled it; R250 gives SEND_RAW no fault. -/
opaque Config.unstoredSource : Nat → Dur

/-- FREE VALUE (log entry 17, DESIGN CHOICE): the phase of the carrier at the start of the `k`-th piece of the line, in
millionths of a carrier period (R29, R220; 93_implementation_defined.md U7). -/
opaque Config.carrierPhase : Nat → Nat

/-- FREE VALUE (log entry 17, DESIGN CHOICE): whether the last carrier period of the `k`-th piece of the line is cut short
(R220; 93_implementation_defined.md U7). -/
opaque Config.lastPeriodCut : Nat → Bool

end Sys2Proof
end

