-- ==== Sys2Proof/Syntax.lean ====
section
/-! DEFINITION. The operations of the block: one constructor per row of spec/opcode_table.json, with the operands
of 30_encoding.md R95. -/

namespace Sys2Proof

/-- The ten operations with an opcode, the tick event, and the six reserved opcodes (R96, R99). -/
inductive Instr where
  /-- `initialize(pin)` (R134) -/
  | init (pin : Pin)
  /-- `enableVisualIndicator(bool)` (R135) -/
  | blink (en : Bool)
  /-- `resume()` (R136) -/
  | resume
  /-- `decode()` (R161) -/
  | decode
  /-- `sendRaw(buffer, length, carrierKHz)` (R216); `buf` refers to the host array `src` (log entry 4) -/
  | sendRaw (buf : Nat) (count : Count) (khz : Khz)
  /-- `sendProtocolA(value, bitWidth)` (R217); `value` is `VALUE_W` bits wide, which `Instr.fits` checks -/
  | sendA (value : Nat) (nbits : NBits)
  /-- `sendProtocolB(value, bitWidth)` (R221) -/
  | sendB (value : Nat) (nbits : NBits)
  /-- `enableOutput(khz)`, internal (R213) -/
  | enableOut (khz : Khz)
  /-- `mark(duration)`, internal (R214) -/
  | mark (dur : Dur)
  /-- `space(duration)`, internal (R215) -/
  | space (dur : Dur)
  /-- the tick event with its level (R120, R121) -/
  | tick (level : Level)
  | reserved0000
  | reserved1011
  | reserved1100
  | reserved1101
  | reserved1110
  | reserved1111
  deriving DecidableEq, Repr

end Sys2Proof
end

