-- ==== Sys2Proof/WellFormed.lean ====
section
/-! DEFINITION. Well-formedness of a profile (R189), of a configuration (R9) and of an instruction (R95, R99, R213). -/

namespace Sys2Proof

/-- Header kinds alternate, the first being `k` (R189: "header kinds alternate starting with MARK"). -/
def alternatesFrom : Level → List HeaderElem → Bool
  | _, [] => true
  | k, h :: hs => decide (h.kind = k) && alternatesFrom (if k = .mark then .space else .mark) hs

/-- Every header space is longer than `MARK_EXCESS_US` (R189). -/
def headerSpacesExceed (excess : Nat) (hs : List HeaderElem) : Bool :=
  hs.all fun h => decide (h.kind = .mark) || decide (excess < h.us.toNat)

/-- A profile is well formed (R189). The bound on durations is in the type `Dur`. -/
def Profile.wf (excess : Nat) (p : Profile) : Bool :=
  decide (p.header.length % 2 = 1)
    && alternatesFrom .mark p.header
    && headerSpacesExceed excess p.header
    && decide (excess < p.bitSpaceUs.toNat)
    && decide (1 ≤ p.carrierKhz.toNat)

/-- A configuration is well formed (R9). -/
def Cfg.wf (c : Cfg) : Bool :=
  decide (1 ≤ c.rawbufCap)
    && decide (1 ≤ c.gapTicks)
    && decide (c.gapTicks + 1 < 2 ^ c.tickW)
    && decide (c.tolPct < 100)
    && c.profileA.wf c.markExcessUs
    && c.profileB.wf c.markExcessUs

/-- Every operand is inside the width of its port (R95, R99). The fixed widths are in the operands' types; what is left
is the value operand, whose width `VALUE_W` is a parameter. -/
def Instr.fits (c : Cfg) : Instr → Bool
  | .sendA v _ => decide (v < 2 ^ c.valueW)
  | .sendB v _ => decide (v < 2 ^ c.valueW)
  | .init _ => true
  | .blink _ => true
  | .resume => true
  | .decode => true
  | .sendRaw _ _ _ => true
  | .enableOut _ => true
  | .mark _ => true
  | .space _ => true
  | .tick _ => true
  | .reserved0000 => true
  | .reserved1011 => true
  | .reserved1100 => true
  | .reserved1101 => true
  | .reserved1110 => true
  | .reserved1111 => true

/-- The instruction has a meaning: it is none of the reserved opcodes, and its carrier operand is not 0 (R99: "Operand
values inside the width are all legal except `khz = 0`"). -/
def Instr.legal : Instr → Bool
  | .sendRaw _ _ khz => decide (khz ≠ 0)
  | .enableOut khz => decide (khz ≠ 0)
  | .init _ => true
  | .blink _ => true
  | .resume => true
  | .decode => true
  | .sendA _ _ => true
  | .sendB _ _ => true
  | .mark _ => true
  | .space _ => true
  | .tick _ => true
  | .reserved0000 => false
  | .reserved1011 => false
  | .reserved1100 => false
  | .reserved1101 => false
  | .reserved1110 => false
  | .reserved1111 => false

/-- A well-formed instruction. -/
def Instr.wf (c : Cfg) (i : Instr) : Bool := i.fits c && i.legal

end Sys2Proof
end

