-- ==== Sys2Proof/Decode.lean ====
section
/-! DEFINITION. Codes of the enumerations, the decoder from the command ports, and the encoder (30_encoding.md).
The decoder is total and rejects by name; the encoder is written from the same tables. -/

namespace Sys2Proof

/-- Level codes: MARK = 1, SPACE = 0 (R93). Segment kinds use the same codes. -/
def Level.code : Level → Nat
  | .space => 0
  | .mark => 1

/-- The level with a given one-bit code (R93). -/
def Level.ofCode (n : Nat) : Level := if n = 1 then .mark else .space

/-- Protocol identifier codes (R91). -/
def Proto.code : Proto → BitVec 2
  | .unknown => 0b00#2
  | .protoA => 0b01#2
  | .protoB => 0b10#2

/-- Why the ports hold no command: something on them is wider than its port (R99: "Operand values outside an operand's
width cannot be expressed"). -/
inductive DecodeError where
  /-- the number on `cmd_op` has more than four bits -/
  | opcodeTooWide (op : Nat)
  /-- the number on operand port `port` is wider than the operand that the format puts there -/
  | operandTooWide (port : Nat) (value : Nat)
  deriving DecidableEq, Repr

/-- The operand of `width` bits on port `port` (R95: "unsigned and are used as they stand"). -/
def operand (port width value : Nat) : Except DecodeError (BitVec width) :=
  if value < 2 ^ width then .ok (BitVec.ofNat width value) else .error (.operandTooWide port value)

/-- Format U: one operand on `arg0` (R95). -/
def formatU (width : Nat) (p : PortWord) (mk : BitVec width → Instr) : Except DecodeError Instr :=
  match operand 0 width p.arg0 with
  | .ok a => .ok (mk a)
  | .error e => .error e

/-- Format R: a reference, a count and a carrier (R95). -/
def formatR (p : PortWord) (mk : Nat → Count → Khz → Instr) : Except DecodeError Instr :=
  match operand 1 8 p.arg1, operand 2 8 p.arg2 with
  | .ok count, .ok khz => .ok (mk p.arg0 count khz)
  | .error e, _ => .error e
  | .ok _, .error e => .error e

/-- Format V: a value of `VALUE_W` bits and a bit count (R95). -/
def formatV (cfg : Cfg) (p : PortWord) (mk : Nat → NBits → Instr) : Except DecodeError Instr :=
  if p.arg0 < 2 ^ cfg.valueW then
    match operand 1 8 p.arg1 with
    | .ok nbits => .ok (mk p.arg0 nbits)
    | .error e => .error e
  else .error (.operandTooWide 0 p.arg0)

/-- The opcode map (R96, R99) on the number on `cmd_op`. Operand ports that the format does not use are ignored
(log entry 9). -/
def decodeCommand (cfg : Cfg) (op : Nat) (p : PortWord) : Except DecodeError Instr :=
  match op with
  | 0b0000 => .ok .reserved0000
  | 0b0001 => formatU 8 p .init
  | 0b0010 => formatU 1 p fun en => .blink (en == 1#1)
  | 0b0011 => .ok .resume
  | 0b0100 => .ok .decode
  | 0b0101 => formatR p .sendRaw
  | 0b0110 => formatV cfg p .sendA
  | 0b0111 => formatV cfg p .sendB
  | 0b1000 => formatU 8 p .enableOut
  | 0b1001 => formatU 16 p .mark
  | 0b1010 => formatU 16 p .space
  | 0b1011 => .ok .reserved1011
  | 0b1100 => .ok .reserved1100
  | 0b1101 => .ok .reserved1101
  | 0b1110 => .ok .reserved1110
  | 0b1111 => .ok .reserved1111
  | op + 16 => .error (.opcodeTooWide (op + 16))

/-- The decoder: a command where an opcode stands on `cmd_op`, the tick event where the strobe takes its place
(format E of R95, with the level on `arg0`). -/
def decode (cfg : Cfg) (p : PortWord) : Except DecodeError Instr :=
  match p.op with
  | some op => decodeCommand cfg op p
  | none => formatU 1 p fun level => .tick (Level.ofCode level.toNat)

/-- The ports that present an instruction (R95, R96); unused operand ports hold 0. -/
def encode : Instr → PortWord
  | .reserved0000 => ⟨some 0b0000, 0, 0, 0⟩
  | .init pin => ⟨some 0b0001, pin.toNat, 0, 0⟩
  | .blink en => ⟨some 0b0010, en.toNat, 0, 0⟩
  | .resume => ⟨some 0b0011, 0, 0, 0⟩
  | .decode => ⟨some 0b0100, 0, 0, 0⟩
  | .sendRaw buf count khz => ⟨some 0b0101, buf, count.toNat, khz.toNat⟩
  | .sendA value nbits => ⟨some 0b0110, value, nbits.toNat, 0⟩
  | .sendB value nbits => ⟨some 0b0111, value, nbits.toNat, 0⟩
  | .enableOut khz => ⟨some 0b1000, khz.toNat, 0, 0⟩
  | .mark dur => ⟨some 0b1001, dur.toNat, 0, 0⟩
  | .space dur => ⟨some 0b1010, dur.toNat, 0, 0⟩
  | .reserved1011 => ⟨some 0b1011, 0, 0, 0⟩
  | .reserved1100 => ⟨some 0b1100, 0, 0, 0⟩
  | .reserved1101 => ⟨some 0b1101, 0, 0, 0⟩
  | .reserved1110 => ⟨some 0b1110, 0, 0, 0⟩
  | .reserved1111 => ⟨some 0b1111, 0, 0, 0⟩
  | .tick level => ⟨none, level.code, 0, 0⟩

/-- The mnemonic of the opcode table (R96, R100). -/
def Instr.mnemonic : Instr → String
  | .init _ => "INIT"
  | .blink _ => "BLINK"
  | .resume => "RESUME"
  | .decode => "DECODE"
  | .sendRaw _ _ _ => "SEND_RAW"
  | .sendA _ _ => "SEND_A"
  | .sendB _ _ => "SEND_B"
  | .enableOut _ => "ENABLE_OUT"
  | .mark _ => "MARK"
  | .space _ => "SPACE"
  | .tick _ => "TICK"
  | .reserved0000 => "RESERVED_0000"
  | .reserved1011 => "RESERVED_1011"
  | .reserved1100 => "RESERVED_1100"
  | .reserved1101 => "RESERVED_1101"
  | .reserved1110 => "RESERVED_1110"
  | .reserved1111 => "RESERVED_1111"

/-- The commands a host may issue: the "public" column of R96. -/
def Instr.isPublic : Instr → Bool
  | .init _ => true
  | .blink _ => true
  | .resume => true
  | .decode => true
  | .sendRaw _ _ _ => true
  | .sendA _ _ => true
  | .sendB _ _ => true
  | .enableOut _ => false
  | .mark _ => false
  | .space _ => false
  | .tick _ => false
  | .reserved0000 => false
  | .reserved1011 => false
  | .reserved1100 => false
  | .reserved1101 => false
  | .reserved1110 => false
  | .reserved1111 => false

/-- The three internal micro-operations of a send (R96). -/
def Instr.isMicro : Instr → Bool
  | .enableOut _ => true
  | .mark _ => true
  | .space _ => true
  | .init _ => false
  | .blink _ => false
  | .resume => false
  | .decode => false
  | .sendRaw _ _ _ => false
  | .sendA _ _ => false
  | .sendB _ _ => false
  | .tick _ => false
  | .reserved0000 => false
  | .reserved1011 => false
  | .reserved1100 => false
  | .reserved1101 => false
  | .reserved1110 => false
  | .reserved1111 => false

/-- The micro-operation that a send begins with, ENABLE_OUT (R213, R214). -/
def Instr.opensSend : Instr → Bool
  | .init _ => false
  | .blink _ => false
  | .resume => false
  | .decode => false
  | .sendRaw _ _ _ => false
  | .sendA _ _ => false
  | .sendB _ _ => false
  | .enableOut _ => true
  | .mark _ => false
  | .space _ => false
  | .tick _ => false
  | .reserved0000 => false
  | .reserved1011 => false
  | .reserved1100 => false
  | .reserved1101 => false
  | .reserved1110 => false
  | .reserved1111 => false

/-- The reserved opcodes `0000` and `1011` to `1111` (R99). -/
def Instr.isReserved : Instr → Bool
  | .init _ => false
  | .blink _ => false
  | .resume => false
  | .decode => false
  | .sendRaw _ _ _ => false
  | .sendA _ _ => false
  | .sendB _ _ => false
  | .enableOut _ => false
  | .mark _ => false
  | .space _ => false
  | .tick _ => false
  | .reserved0000 => true
  | .reserved1011 => true
  | .reserved1100 => true
  | .reserved1101 => true
  | .reserved1110 => true
  | .reserved1111 => true

/-- An opcode-table word as ports (log entry 9): the table's one-bit row is the level of the tick strobe, every other row
is the number on `cmd_op`; the operand ports, which the table gives no bits, hold 0. -/
def tableWord (nbits w : Nat) : PortWord :=
  if nbits = 1 then ⟨none, w, 0, 0⟩ else ⟨some w, 0, 0, 0⟩

/-- The instruction the decoder reads from an opcode-table word. -/
def decodeTableWord (nbits w : Nat) : Option Instr :=
  match decode Cfg.default (tableWord nbits w) with
  | .ok i => some i
  | .error _ => none

end Sys2Proof
end

