-- ==== Sys2Proof/Machine/State.lean ====
section
/-! DEFINITION. The state record of 10_state.md R20, the configuration it runs under, the model's own fields for what
stands outside the block (inputs, the host's array, the last result), the two stop reasons, and reset. -/

namespace Sys2Proof.Machine

/-- CaptureState (R21). -/
inductive RcvState where
  | idle
  | timingMark
  | timingSpace
  | stopped
  deriving DecidableEq, Repr

/-- What the one timer resource does (R28). -/
inductive TimerMode where
  | off
  | rxTick
  | txPwm
  deriving DecidableEq, Repr

/-- An element-addressed memory (R60): pairs of an index and the element there, indexes strictly rising. An index that is
not listed was never written: an entry of the capture space holds no value there (log entry 7), an element of the host's array reads as a
free value (log entry 4). -/
abbrev Memory (α : Type) := List (Nat × α)

/-- `rawref`, the "reference to the raw capture buffer": it denotes the capture space itself, not a copy (R37, R77). -/
inductive RawRef where
  | captureSpace
  deriving DecidableEq, Repr

/-- The fields of a DecodeResult beside its status (R37). -/
structure Decoded where
  proto  : Proto
  nbits  : NBits
  value  : Nat
  rawref : RawRef
  rawlen : Nat
  deriving DecidableEq, Repr

/-- The DecodeResult (R37). With status NOT_READY there is no other field to read (R38). -/
inductive DecodeResult where
  | notReady
  | ready (d : Decoded)
  deriving DecidableEq, Repr

/-- What can happen next (log entry 2): the model's own presentation of the three agents of R10. -/
inductive Input where
  /-- The tick strobe of the timer, with the input pins that read electrically high at that moment (R93, R120). -/
  | strobe (high : List Pin)
  /-- A command on the host port (R94). -/
  | host (w : PortWord)
  /-- One micro-operation of a send that is written as a sequence of them (R11, R31, R96; log entry 3). -/
  | micro (w : PortWord)
  /-- The END_OF_SEND of such a send; it has no opcode (R219; log entry 3). -/
  | endSend
  /-- The host stores a duration into its own array, the transmit source space (R60 (b); log entry 4). -/
  | store (index : Nat) (dur : Dur)
  deriving DecidableEq, Repr

/-- The state. -/
structure State where
  /-- the configuration `Cfg` (R8); no step writes it (log entry 1) -/
  cfg       : Cfg
  /-- CaptureState (R21) -/
  rcvstate  : RcvState
  /-- TickCounter, `TICK_W` bits (R22) -/
  timer     : Nat
  /-- CaptureBuffer, the capture space (R23, R60 (a)) -/
  rawbuf    : Memory Nat
  /-- number of valid entries, `LEN_W` bits (R24) -/
  rawlen    : Nat
  /-- visual indicator enabled (R25) -/
  blinkEn   : Bool
  /-- visual indicator output (R25) -/
  indOut    : Bool
  /-- the pin that is sampled (R26) -/
  rxPin     : Pin
  /-- the tick interrupt is enabled (R27) -/
  rxTickEn  : Bool
  /-- what the timer resource is doing (R28) -/
  timerMode : TimerMode
  /-- carrier frequency in kHz (R29) -/
  txKhz     : Khz
  /-- carrier gate (R29) -/
  txPwmOn   : Bool
  /-- everything sent since reset, oldest first (R30) -/
  txTrace   : List Segment
  /-- the model's own: what the last DECODE returned to its caller (log entry 5) -/
  result    : Option DecodeResult
  /-- the model's own: the host's transmit source space (R60 (b); log entry 4) -/
  src       : Memory Dur
  /-- the model's own: the send written as micro-operations that is running, if any, with its `prev`, the value that `rx_tick_en` had
  when it began (R31, R219; log entry 3) -/
  openSend  : Option Bool
  /-- the model's own: the events still to come, the next one first (log entry 2) -/
  inputs    : List Input
  deriving DecidableEq, Repr

/-- Why a step stops for want of a value. The block itself raises nothing (R250); these are for what lies outside its
rules. -/
inductive Fault where
  /-- A read of the capture space at an index that holds no value (R62; 93_implementation_defined.md U1). Raised by DECODE in
  states no run reaches, and by a host read through `rawref`. Safe. -/
  | entryWithoutValue (index : Nat)
  /-- A host read through `rawref` at or past the `rawlen` of the result that gave the reference (R77; U1). Safe. -/
  | pastReference (index : Nat)
  deriving DecidableEq, Repr

/-- Why a step has no meaning. -/
inductive Refusal where
  /-- An instruction without a meaning in this model, by its mnemonic. No arm of `exec` says so any more. Safe. -/
  | notModelled (mnemonic : String)
  /-- A reserved opcode (R99; U2). Raised by the six reserved rows. Safe. -/
  | reservedOpcode (op : BitVec 4)
  /-- `khz = 0`: "no carrier period exists" (R99, R213; U6). Raised by ENABLE_OUT, SEND_RAW and, in an ill-formed
  configuration only, by SEND_A and SEND_B. Safe. -/
  | zeroCarrier
  /-- The ports hold something wider than they are (R99). Raised by the decoder. Safe. -/
  | undecodable (e : DecodeError)
  /-- An operation that the host port does not accept: one of the internal opcodes, or the tick event (R96, R99; U2). Safe. -/
  | notAHostCommand
  /-- Something other than a micro-operation in the place of one (R96; log entry 3). Safe. -/
  | notAMicroOperation
  /-- MARK, SPACE or END_OF_SEND with no ENABLE_OUT before it in the same send (the precondition of R214; R219; log entry 3). Raised
  by the sequencer. Safe. -/
  | outsideSend
  /-- A host command or a host store between the ENABLE_OUT of a send and its END_OF_SEND, where the host is blocked (R10, R218; U13).
  Raised by the host port. Safe. -/
  | hostBlocked
  /-- END_OF_SEND with the carrier gate on: "every send ends with a SPACE" (R219). Raised by the sequencer. Safe. -/
  | gateLeftOn
  /-- An ill-formed configuration (R9; U12). Raised by every step. Safe. -/
  | illFormedConfig
  /-- A host read through the `rawref` of a NOT_READY result, which has none (R38; U3). Safe. -/
  | noReference
  deriving DecidableEq, Repr

/-- The state before the first host command (R43, R280), under the default configuration. The values of `indOut`, `rxPin` and
`txKhz` are the model's (log entry 6, DESIGN CHOICE: the spec gives none). -/
def State.reset : State where
  cfg := Cfg.default
  rcvstate := .idle
  timer := 0
  rawbuf := []
  rawlen := 0
  blinkEn := false
  indOut := false
  rxPin := 0
  rxTickEn := false
  timerMode := .off
  txKhz := 0
  txPwmOn := false
  txTrace := []
  result := none
  src := []
  openSend := none
  inputs := []

end Sys2Proof.Machine
end

