-- ==== Sys2Proof/Machine/Operands.lean ====
section
/-! DEFINITION. How operands are read: the level of a tick from the pin, bits of a value, the codes of the state registers,
and the comparison of a measured duration with a protocol constant (R181, R182). -/

namespace Sys2Proof.Machine

/-- The level of a tick: MARK exactly when the electrical value read from pin `rx_pin` equals `RX_MARK_LEVEL` (R93). -/
def State.levelOf (s : State) (high : List Pin) : Level :=
  if high.contains s.rxPin = s.cfg.rxMarkLevel then .mark else .space

/-- State codes (R90). -/
def RcvState.code : RcvState → BitVec 2
  | .idle => 0b00#2
  | .timingMark => 0b01#2
  | .timingSpace => 0b10#2
  | .stopped => 0b11#2

/-- Timer mode codes (R93). -/
def TimerMode.code : TimerMode → BitVec 2
  | .off => 0b00#2
  | .rxTick => 0b01#2
  | .txPwm => 0b10#2

/-- Status codes of a result: NOT_READY = 0, READY = 1 (R92). -/
def DecodeResult.statusCode : DecodeResult → BitVec 1
  | .notReady => 0#1
  | .ready _ => 1#1

/-- Bit `i` of a value of `VALUE_W` bits; the bits from `VALUE_W` up are 0 (R12, R222). -/
def valueBit (cfg : Cfg) (value i : Nat) : Bool :=
  decide (i < cfg.valueW) && value.testBit i

/-- `adj(k, d)`: the margin lengthens an expected mark and shortens an expected space (R181). A well-formed profile keeps the
operands of the subtraction in order (R183, R189). -/
def adjusted (cfg : Cfg) (k : Level) (d : Dur) : Nat :=
  match k with
  | .mark => d.toNat + cfg.markExcessUs
  | .space => d.toNat - cfg.markExcessUs

/-- `lo(k, d)` by the formula of R181, in ticks. -/
def formulaLo (cfg : Cfg) (k : Level) (d : Dur) : Nat :=
  adjusted cfg k d * (100 - cfg.tolPct) / (100 * usecPerTick)

/-- `hi(k, d)` by the formula of R181, in ticks. -/
def formulaHi (cfg : Cfg) (k : Level) (d : Dur) : Nat :=
  adjusted cfg k d * (100 + cfg.tolPct) / (100 * usecPerTick) + 1

/-- The configuration's own bounds for a kind and a constant, if it substitutes the formula there (R181; log entry 20). -/
def substituted (cfg : Cfg) (k : Level) (d : Dur) : Option WindowEntry :=
  cfg.windowTable.find? fun w => decide (w.kind = k) && decide (w.us = d)

/-- `lo(k, d)`, in ticks (R181). -/
def windowLo (cfg : Cfg) (k : Level) (d : Dur) : Nat :=
  match substituted cfg k d with
  | some w => w.lo
  | none => formulaLo cfg k d

/-- `hi(k, d)`, in ticks (R181). -/
def windowHi (cfg : Cfg) (k : Level) (d : Dur) : Nat :=
  match substituted cfg k d with
  | some w => w.hi
  | none => formulaHi cfg k d

/-- `MATCH_WINDOW(k, m, d)`: both bounds are inclusive (R182). -/
def matchWindow (cfg : Cfg) (k : Level) (m : Nat) (d : Dur) : Bool :=
  decide (windowLo cfg k d ≤ m) && decide (m ≤ windowHi cfg k d)

end Sys2Proof.Machine
end

