-- ==== Sys2Proof/Machine/Flags.lean ====
section
/-! DEFINITION. The block's status predicates and the one flag a tick computes (R35, R132). There are no condition codes. -/

namespace Sys2Proof.Machine

/-- The predicate `full`, "checked before every write" and computed, not stored (R35). -/
def State.full (s : State) : Bool := decide (s.cfg.rawbufCap ≤ s.rawlen)

/-- The predicate `stopped` (R35). -/
def State.stopped (s : State) : Bool := decide (s.rcvstate = .stopped)

/-- The indicator output after a tick: 1 on MARK and 0 on SPACE while `blink_en = 1`, else as it was (R25, R132). -/
def indicatorAfter (s : State) (l : Level) : Bool :=
  if s.blinkEn then decide (l = .mark) else s.indOut

/-- The tick counter after the count of a tick, modulo `2^TICK_W` (R22, R121 step 2). -/
def counted (s : State) : Nat := (s.timer + 1) % 2 ^ s.cfg.tickW

end Sys2Proof.Machine
end

