-- ==== Sys2Proof/Machine/Ops.lean ====
section
/-! DEFINITION. The named operations over memories and registers that the meanings share: memory access (R62, R63, R66), the
steps of a tick, RESUME, the micro-operations of a send, the end of a send, and taking the tick interrupt. -/

namespace Sys2Proof.Machine

/-! ### Memories -/

/-- The canonical form: indexes strictly rising. A listed element never stands for an unlisted one: an unlisted entry of the capture space
holds no value, and what an unlisted element of the host's array reads as is free, which nothing can compare (log entries 4, 7). -/
abbrev Memory.wf {α : Type} (m : Memory α) : Prop := m.Pairwise fun x y => x.1 < y.1

/-- The element that was written at an index, none where none was. -/
def Memory.read {α : Type} : Memory α → Nat → Option α
  | [], _ => none
  | (b, w) :: rest, a => if a = b then some w else Memory.read rest a

/-- The memory with the element at an index replaced. -/
def Memory.write {α : Type} : Memory α → Nat → α → Memory α
  | [], a, v => [(a, v)]
  | (b, w) :: rest, a, v =>
    if a < b then (a, v) :: (b, w) :: rest
    else if a = b then (a, v) :: rest
    else (b, w) :: Memory.write rest a v

/-- `MemRead` of the capture space (R62): an entry at an index `>= rawlen` holds no value, and reading it is a fault. -/
def memRead (s : State) (i : Nat) : Except Fault Nat :=
  if i < s.rawlen then
    match s.rawbuf.read i with
    | some v => .ok v
    | none => .error (.entryWithoutValue i)
  else .error (.entryWithoutValue i)

/-- The `n` entries from index `i` on. -/
def readEntries (s : State) : Nat → Nat → Except Fault (List Nat)
  | _, 0 => .ok []
  | i, n + 1 =>
    match memRead s i with
    | .error f => .error f
    | .ok v =>
      match readEntries s (i + 1) n with
      | .error f => .error f
      | .ok vs => .ok (v :: vs)

/-- The captured message `rawbuf[0 .. rawlen-1]`, what DECODE reads (R160). -/
def capturedEntries (s : State) : Except Fault (List Nat) := readEntries s 0 s.rawlen

/-- The element of the host's array space at an index (R66): what the host stored there, else a free value (log entry 4). -/
def sourceElem (s : State) (a : Nat) : Dur :=
  match s.src.read a with
  | some d => d
  | none => Config.unstoredSource a

/-- `src[0 .. n-1]` of the array at `buf`, each element once and in order (R66). -/
def readSource (s : State) (buf n : Nat) : List Dur := (List.range n).map fun i => sourceElem s (buf + i)

/-- The host stores a duration into its own array (R60 (b)). -/
def storeSource (index : Nat) (dur : Dur) (s : State) : State := { s with src := s.src.write index dur }

/-- A host read `rawbuf[i]` through the `rawref` of a result that the host holds, the last one or an older one (R77): the live entry, for
`i` below that result's `rawlen`. The result is the caller's own (R37), so a later DECODE takes nothing from it, and after a RESUME
it reads what the next capture has put there (R38, R292). The read has no side effect, so it is no step (R70; log entry 5). -/
def hostReadRef (held : DecodeResult) (s : State) (i : Nat) : Host.Outcome Nat Fault Refusal :=
  match held with
  | .ready d =>
    if i < d.rawlen then
      match memRead s i with
      | .ok v => .next v
      | .error f => .fault f
    else .fault (.pastReference i)
  | .notReady => .refused .noReference

/-! ### The steps of a tick (R121) -/

/-- Step 1, the indicator (R132). -/
def setIndicator (l : Level) (s : State) : State := { s with indOut := indicatorAfter s l }

/-- Step 2, count this tick. -/
def countTick (s : State) : State := { s with timer := counted s }

/-- Step 3, the capacity test (R123). -/
def testCapacity (s : State) : State := if s.full then { s with rcvstate := .stopped } else s

/-- `timer <- 0`. -/
def clearTimer (s : State) : State := { s with timer := 0 }

/-- `MemWrite` of the capture space with what goes with it in R121: `rawbuf[i] <- timer`, the length, `timer <- 0`, the next
state (R63). The value goes in at full width (R64). -/
def record (i : Nat) (next : RcvState) (s : State) : State :=
  { s with rawbuf := s.rawbuf.write i s.timer, rawlen := i + 1, timer := 0, rcvstate := next }

/-- Step 4, act on the level (R124 to R130). -/
def actOnLevel (l : Level) (s : State) : State :=
  match s.rcvstate, l with
  | .idle, .space => s
  | .idle, .mark => if s.timer < s.cfg.gapTicks then clearTimer s else record 0 .timingMark s
  | .timingMark, .space => record s.rawlen .timingSpace s
  | .timingMark, .mark => s
  | .timingSpace, .mark => record s.rawlen .timingMark s
  | .timingSpace, .space => if s.cfg.gapTicks < s.timer then { s with rcvstate := .stopped } else s
  | .stopped, .mark => clearTimer s
  | .stopped, .space => s

/-! ### RESUME -/

/-- `rcvstate <- IDLE; rawlen <- 0` (R136): RESUME, and what DECODE does on its too-short path (R165). -/
def discard (s : State) : State := { s with rcvstate := .idle, rawlen := 0 }

/-! ### Transmit -/

/-- `emit(on, d)` appends `(on, d, tx_khz)` to the trace (R212). -/
def emit (on : Bool) (d : Dur) (s : State) : State :=
  { s with txTrace := s.txTrace ++ [⟨on, d, s.txKhz⟩] }

/-- The effect of ENABLE_OUT with `khz >= 1` (R213). -/
def startCarrier (khz : Khz) (s : State) : State :=
  { s with rxTickEn := false, timerMode := .txPwm, txKhz := khz, txPwmOn := false }

/-- The effect of MARK (R214). -/
def sendMark (d : Dur) (s : State) : State := emit true d { s with txPwmOn := true }

/-- The effect of SPACE (R215). -/
def sendSpace (d : Dur) (s : State) : State := emit false d { s with txPwmOn := false }

/-- One segment of a send, by its kind. -/
def sendSegment (s : State) : Level × Dur → State
  | (.mark, d) => sendMark d s
  | (.space, d) => sendSpace d s

/-- `END_OF_SEND(prev)` (R219). -/
def endOfSend (prev : Bool) (s : State) : State :=
  if s.cfg.txEndRxEn = .restore ∧ prev = true then { s with timerMode := .rxTick, rxTickEn := true } else s

/-- A whole send after its operands are read: ENABLE_OUT, the segments in order, `SPACE(0)`, END_OF_SEND (R216, R222). It is one
step (R31, R218). -/
def wholeSend (khz : Khz) (segs : List (Level × Dur)) (s : State) : State :=
  endOfSend s.rxTickEn (sendSpace 0 (segs.foldl sendSegment (startCarrier khz s)))

/-! ### A send written as micro-operations -/

/-- The send begins: `prev <- rx_tick_en` is remembered (R216, R219). -/
def beginSend (s : State) : State := { s with openSend := some s.rxTickEn }

/-- The send is over; the host goes on (R218). -/
def leaveSend (s : State) : State := { s with openSend := none }

/-- END_OF_SEND of a send that is running, with the gate off as every send leaves it (R219). -/
def closeSend (s : State) : Host.Outcome State Fault Refusal :=
  match s.openSend with
  | none => .refused .outsideSend
  | some prev => if s.txPwmOn then .refused .gateLeftOn else .next (endOfSend prev (leaveSend s))

/-! ### The tick interrupt -/

/-- Taking the tick interrupt (R253 to R255): it is taken while `rx_tick_en = 1`; entry saves nothing and changes no field, the
handler is the TICK step and nothing else, and return changes no field. While `rx_tick_en = 0` the tick is lost, not latched
(R27, R42). -/
def takeTick (handler : State → Host.Outcome State Fault Refusal) (s : State) : Host.Outcome State Fault Refusal :=
  if s.rxTickEn then handler s else .next s

end Sys2Proof.Machine
end

