-- ==== Sys2Proof/Machine/DecodeEngine.lean ====
section
/-! DEFINITION. The decode engine and the protocol matcher: DECODE (41_decode_engine.md R161), MATCH_PROFILE
(42_protocol_matchers.md R185). The matcher is a pure function of the captured entries (R97, R184). -/

namespace Sys2Proof.Machine

/-- The header test (R185): each header element against the next entry; the entries after the header, or none on a
mismatch. -/
def matchHeader (cfg : Cfg) : List HeaderElem → List Nat → Option (List Nat)
  | [], entries => some entries
  | _ :: _, [] => none
  | h :: hs, m :: entries => if matchWindow cfg h.kind m h.us then matchHeader cfg hs entries else none

/-- The bit of a mark: one is tested before zero (R194). -/
def classifyMark (cfg : Cfg) (p : Profile) (m : Nat) : Option Bool :=
  if matchWindow cfg .mark m p.oneMarkUs then some true
  else if matchWindow cfg .mark m p.zeroMarkUs then some false
  else none

/-- `v <- ((v << 1) | b) mod 2^VALUE_W` (R186). -/
def accumulate (cfg : Cfg) (v : Nat) (b : Bool) : Nat := (2 * v + b.toNat) % 2 ^ cfg.valueW

/-- The loop over (space, mark) pairs (R185); a lone last entry stays unexamined (R187), and the first entry outside its
window rejects (R193). -/
def matchPairs (cfg : Cfg) (p : Profile) : List Nat → Nat → Nat → Option (Nat × Nat)
  | [], n, v => some (n, v)
  | [_], n, v => some (n, v)
  | sp :: mk :: rest, n, v =>
    if matchWindow cfg .space sp p.bitSpaceUs then
      match classifyMark cfg p mk with
      | some b => matchPairs cfg p rest (n + 1) (accumulate cfg v b)
      | none => none
    else none

/-- `MATCH_PROFILE(P)` on the captured entries, the gap first (R185): `some (n, v)` accepts with `n` bits and value `v`, none
rejects. Entry 0 is never examined. -/
def matchProfile (cfg : Cfg) (p : Profile) (entries : List Nat) : Option (Nat × Nat) :=
  if entries.length < 1 + p.header.length + 2 then none
  else
    match matchHeader cfg p.header entries.tail with
    | some pairs => matchPairs cfg p pairs 0 0
    | none => none

/-- The `nbits` field of a result: the bit count where it fits, a free value where it does not (R186; log entry 8). -/
def bitCountField (cfg : Cfg) (p : Profile) (entries : List Nat) (n : Nat) : NBits :=
  if n < 256 then BitVec.ofNat 8 n else Config.wideBitCount cfg p entries

/-- The READY result of an accepting profile (R163). -/
def acceptedBy (cfg : Cfg) (p : Profile) (entries : List Nat) (r : Nat × Nat) : DecodeResult :=
  .ready
    { proto := p.id, nbits := bitCountField cfg p entries r.1, value := r.2, rawref := .captureSpace,
      rawlen := entries.length }

/-- The READY result of an unrecognized capture (R164). -/
def unrecognized (entries : List Nat) : DecodeResult :=
  .ready { proto := .unknown, nbits := 0, value := 0, rawref := .captureSpace, rawlen := entries.length }

/-- What DECODE answers on a captured message, none on the too-short path (R161): `PROFILE_A`, `PROFILE_B`, then the length. -/
def decodeEntries (cfg : Cfg) (entries : List Nat) : Option DecodeResult :=
  match matchProfile cfg cfg.profileA entries with
  | some r => some (acceptedBy cfg cfg.profileA entries r)
  | none =>
    match matchProfile cfg cfg.profileB entries with
    | some r => some (acceptedBy cfg cfg.profileB entries r)
    | none => if minRaw ≤ entries.length then some (unrecognized entries) else none

/-- `return r` of DECODE: the result goes to the caller (log entry 5). -/
def returnResult (r : DecodeResult) (s : State) : State := { s with result := some r }

/-- DECODE (R161). -/
def execDecode (s : State) : Host.Outcome State Fault Refusal :=
  if s.stopped then
    match capturedEntries s with
    | .error f => .fault f
    | .ok entries =>
      match decodeEntries s.cfg entries with
      | some r => .next (returnResult r s)
      | none => .next (returnResult .notReady (discard s))
  else .next (returnResult .notReady s)

end Sys2Proof.Machine
end

