-- ==== Sys2Proof/Machine/Receive.lean ====
section
/-! DEFINITION. The receive state machine and the receiver's commands: TICK, INIT, BLINK, RESUME (40_rx_state_machine.md). -/

namespace Sys2Proof.Machine

/-- TICK (R121): indicator, count, capacity test, then the level, as one indivisible step. -/
def execTick (level : Level) (s : State) : Host.Outcome State Fault Refusal :=
  .next (actOnLevel level (testCapacity (countTick (setIndicator level s))))

/-- INIT (R134). -/
def execInit (pin : Pin) (s : State) : Host.Outcome State Fault Refusal :=
  .next { s with
    rxPin := pin
    rcvstate := .idle
    rawlen := 0
    timer := 0
    timerMode := .rxTick
    rxTickEn := true
    txPwmOn := false }

/-- BLINK (R135): it does not touch `ind_out`. -/
def execBlink (en : Bool) (s : State) : Host.Outcome State Fault Refusal :=
  .next { s with blinkEn := en }

/-- RESUME (R136): `timer` and the contents of `rawbuf` stay. -/
def execResume (s : State) : Host.Outcome State Fault Refusal := .next (discard s)

end Sys2Proof.Machine
end

