-- ==== Sys2Proof/Machine/Reserved.lean ====
section
/-! DEFINITION. The six reserved opcodes (R99): "the command has no step and no meaning". Each refuses by name. -/

namespace Sys2Proof.Machine

/-- A reserved opcode is refused (R99). -/
def refuseReserved (op : BitVec 4) (_ : State) : Host.Outcome State Fault Refusal :=
  .refused (.reservedOpcode op)

/-- Opcode `0000` (R99). -/
def execReserved0000 (s : State) : Host.Outcome State Fault Refusal := refuseReserved 0b0000#4 s

/-- Opcode `1011` (R99). -/
def execReserved1011 (s : State) : Host.Outcome State Fault Refusal := refuseReserved 0b1011#4 s

/-- Opcode `1100` (R99). -/
def execReserved1100 (s : State) : Host.Outcome State Fault Refusal := refuseReserved 0b1100#4 s

/-- Opcode `1101` (R99). -/
def execReserved1101 (s : State) : Host.Outcome State Fault Refusal := refuseReserved 0b1101#4 s

/-- Opcode `1110` (R99). -/
def execReserved1110 (s : State) : Host.Outcome State Fault Refusal := refuseReserved 0b1110#4 s

/-- Opcode `1111` (R99). -/
def execReserved1111 (s : State) : Host.Outcome State Fault Refusal := refuseReserved 0b1111#4 s

end Sys2Proof.Machine
end

