-- ==== Sys2Proof/Machine/Sender.lean ====
section
/-! DEFINITION. The pulse sender: the micro-operations ENABLE_OUT, MARK, SPACE and the sends SEND_RAW, SEND_A, SEND_B
(43_pulse_sender.md). A send is one atomic step (R31). -/

namespace Sys2Proof.Machine

/-- ENABLE_OUT (R213); `khz = 0` is refused. -/
def execEnableOut (khz : Khz) (s : State) : Host.Outcome State Fault Refusal :=
  if khz = 0 then .refused .zeroCarrier else .next (startCarrier khz s)

/-- MARK (R214). -/
def execMark (dur : Dur) (s : State) : Host.Outcome State Fault Refusal := .next (sendMark dur s)

/-- SPACE (R215). -/
def execSpace (dur : Dur) (s : State) : Host.Outcome State Fault Refusal := .next (sendSpace dur s)

/-- The kinds of a raw send's segments: "even index = mark, odd = space" (R216). -/
def rawSegments : Level → List Dur → List (Level × Dur)
  | _, [] => []
  | .mark, d :: ds => (.mark, d) :: rawSegments .space ds
  | .space, d :: ds => (.space, d) :: rawSegments .mark ds

/-- The segments of one bit: the inter-bit space, then the mark whose length carries the bit (R222). -/
def bitSegments (p : Profile) (b : Bool) : List (Level × Dur) :=
  [(.space, p.bitSpaceUs), (.mark, if b then p.oneMarkUs else p.zeroMarkUs)]

/-- The segments of `nbits` bits of a value, most significant bit first (R68, R222). -/
def valueSegments (cfg : Cfg) (p : Profile) (value : Nat) : Nat → List (Level × Dur)
  | 0 => []
  | n + 1 => bitSegments p (valueBit cfg value n) ++ valueSegments cfg p value n

/-- The segments of a protocol send before its closing `SPACE(0)`: the header that the matcher checks, then the bits (R222). -/
def profileSegments (cfg : Cfg) (p : Profile) (value nbits : Nat) : List (Level × Dur) :=
  p.header.map (fun h => (h.kind, h.us)) ++ valueSegments cfg p value nbits

/-- SEND_RAW (R216). -/
def execSendRaw (buf : Nat) (count : Count) (khz : Khz) (s : State) : Host.Outcome State Fault Refusal :=
  if khz = 0 then .refused .zeroCarrier
  else .next (wholeSend khz (rawSegments .mark (readSource s buf count.toNat)) s)

/-- `SEND_PROFILE(P, value, nbits)` (R222). A well-formed profile's carrier is not 0. -/
def sendProfile (p : Profile) (value : Nat) (nbits : NBits) (s : State) : Host.Outcome State Fault Refusal :=
  if p.carrierKhz = 0 then .refused .zeroCarrier
  else .next (wholeSend p.carrierKhz (profileSegments s.cfg p value nbits.toNat) s)

/-- SEND_A (R217). -/
def execSendA (value : Nat) (nbits : NBits) (s : State) : Host.Outcome State Fault Refusal :=
  sendProfile s.cfg.profileA value nbits s

/-- SEND_B (R221). -/
def execSendB (value : Nat) (nbits : NBits) (s : State) : Host.Outcome State Fault Refusal :=
  sendProfile s.cfg.profileB value nbits s

end Sys2Proof.Machine
end

