-- ==== Sys2Proof/Machine/Dispatch.lean ====
section
/-! DEFINITION. The one match from an instruction to its meaning. -/

namespace Sys2Proof.Machine

def exec (i : Instr) (s : State) : Host.Outcome State Fault Refusal :=
  match i with
  | .init pin => Sys2Proof.Machine.execInit pin s
  | .blink en => Sys2Proof.Machine.execBlink en s
  | .resume => Sys2Proof.Machine.execResume s
  | .decode => Sys2Proof.Machine.execDecode s
  | .sendRaw buf count khz => Sys2Proof.Machine.execSendRaw buf count khz s
  | .sendA value nbits => Sys2Proof.Machine.execSendA value nbits s
  | .sendB value nbits => Sys2Proof.Machine.execSendB value nbits s
  | .enableOut khz => Sys2Proof.Machine.execEnableOut khz s
  | .mark dur => Sys2Proof.Machine.execMark dur s
  | .space dur => Sys2Proof.Machine.execSpace dur s
  | .tick level => Sys2Proof.Machine.execTick level s
  | .reserved0000 => Sys2Proof.Machine.execReserved0000 s
  | .reserved1011 => Sys2Proof.Machine.execReserved1011 s
  | .reserved1100 => Sys2Proof.Machine.execReserved1100 s
  | .reserved1101 => Sys2Proof.Machine.execReserved1101 s
  | .reserved1110 => Sys2Proof.Machine.execReserved1110 s
  | .reserved1111 => Sys2Proof.Machine.execReserved1111 s

end Sys2Proof.Machine
end

