-- ==== Sys2Proof/Machine/Issue.lean ====
section
/-! DEFINITION. How the next event reaches `exec`: the host port, the micro-operation sequencer, the tick source, the host's own
store (00_scope.md R10, 30_encoding.md R96, 43_pulse_sender.md R218; log entries 2 to 4). -/

namespace Sys2Proof.Machine

/-- An action of the host: it has none while a send runs (R10, R218). -/
def whileHostRuns (act : State → Host.Outcome State Fault Refusal) (s : State) : Host.Outcome State Fault Refusal :=
  match s.openSend with
  | none => act s
  | some _ => .refused .hostBlocked

/-- A command on the host port: decoded, and run if it is public or reserved (a reserved opcode then refuses in its own
meaning); the internal opcodes and the tick event are refused there (R96, R99). -/
def issueHost (w : PortWord) (s : State) : Host.Outcome State Fault Refusal :=
  match decode s.cfg w with
  | .error e => .refused (.undecodable e)
  | .ok i => if i.isPublic || i.isReserved then exec i s else .refused .notAHostCommand

/-- One micro-operation of a send that is written as a sequence of them (R11, R31, R96): inside a send it runs; outside, ENABLE_OUT
begins one, and MARK and SPACE miss their precondition, "an ENABLE_OUT earlier in the same send" (R214). -/
def issueMicro (w : PortWord) (s : State) : Host.Outcome State Fault Refusal :=
  match decode s.cfg w with
  | .error e => .refused (.undecodable e)
  | .ok i =>
    if i.isMicro then
      match s.openSend with
      | some _ => exec i s
      | none => if i.opensSend then exec i (beginSend s) else .refused .outsideSend
    else .refused .notAMicroOperation

/-- The next event. -/
def issue (e : Input) (s : State) : Host.Outcome State Fault Refusal :=
  match e with
  | .strobe high => takeTick (exec (.tick (s.levelOf high))) s
  | .host w => whileHostRuns (issueHost w) s
  | .micro w => issueMicro w s
  | .endSend => closeSend s
  | .store index dur => whileHostRuns (fun s => .next (storeSource index dur s)) s

end Sys2Proof.Machine
end

