-- ==== Sys2Proof/Machine/Step.lean ====
section
/-! DEFINITION. One step of the machine, and how an opcode-table word is placed as its next event. -/

namespace Sys2Proof.Machine

/-- One step: the next event is taken and acts (R11, R71). With no event to come nothing happens; the block never halts (R301;
log entry 2). An ill-formed configuration is refused (R9). -/
def step (s : State) : Host.Outcome State Fault Refusal :=
  if s.cfg.wf then
    match s.inputs with
    | [] => .next s
    | e :: rest => issue e { s with inputs := rest }
  else .refused .illFormedConfig

/-- The pins that read high when the sampled pin shows a level (R93). -/
def State.pinsFor (s : State) (l : Level) : List Pin :=
  if (l = .mark) = (s.cfg.rxMarkLevel = true) then [s.rxPin] else []

/-- The state as the ENABLE_OUT of a send leaves the shared timer, the carrier as it was (R213). -/
def State.withSendBegun (s : State) : State :=
  { s with openSend := some s.rxTickEn, rxTickEn := false, timerMode := .txPwm }

/-- The state with an opcode-table word as its very next event (log entry 10). The one-bit word is a tick strobe with the sampled
pin at that level, and needs the tick enabled; the three internal opcodes go to the sequencer, where MARK and SPACE need a
send begun; every other word is a command on the host port, and needs the host unblocked. -/
def State.withFetchWord (s : State) (nbits w : Nat) : State :=
  match decodeTableWord nbits w with
  | some (.tick l) =>
    { s with
      rxTickEn := true, timerMode := .rxTick, txPwmOn := false, openSend := none
      inputs := .strobe (s.pinsFor l) :: s.inputs }
  | some (.enableOut _) => { s with inputs := .micro (tableWord nbits w) :: s.inputs }
  | some (.mark _) => { s.withSendBegun with inputs := .micro (tableWord nbits w) :: s.inputs }
  | some (.space _) => { s.withSendBegun with inputs := .micro (tableWord nbits w) :: s.inputs }
  | _ => { s with openSend := none, inputs := .host (tableWord nbits w) :: s.inputs }

end Sys2Proof.Machine
end

