-- ==== Sys2Proof/Machine/Line.lean ====
section
/-! DEFINITION. Views of the output line that are derived from the transmit state and are no state themselves (R29, R30, R220), and
the sampling of a trace into a tick stream by an ideal receiver (95_test_vectors.md section 4, R101). -/

namespace Sys2Proof.Machine

/-- What the output line does (R29, R220): it is low, or it carries a rectangular carrier of `khz` kHz. -/
inductive LineSeg where
  | low (us : Nat)
  | carrier (us : Nat) (khz : Khz)
  deriving DecidableEq, Repr

/-- The line at one moment (R29). -/
inductive TxOut where
  | low
  | carrier (khz : Khz) (dutyNum dutyDen : Nat)
  deriving DecidableEq, Repr

/-- `tx_out`: a carrier while the gate is on, constant 0 while it is off (R29). -/
def State.txOut (s : State) : TxOut :=
  if s.txPwmOn then .carrier s.txKhz s.cfg.dutyNum s.cfg.dutyDen else .low

/-- One segment of the trace as a piece of the line (R220). -/
def lineSeg (g : Segment) : LineSeg := if g.on then .carrier g.dur.toNat g.khz else .low g.dur.toNat

/-- A piece put before a line whose neighbours are already merged: neighbours of the same kind are added (R220). DESIGN CHOICE (log entry
24): R30 and R220 merge neighbours with equal `on` and give no carrier for two marks with unlike `khz`; such marks stay two pieces. -/
def mergeInto : LineSeg → List LineSeg → List LineSeg
  | .low a, .low b :: rest => .low (a + b) :: rest
  | .carrier a k, .carrier b k' :: rest =>
    if k = k' then .carrier (a + b) k :: rest else .carrier a k :: .carrier b k' :: rest
  | .low a, .carrier b k :: rest => .low a :: .carrier b k :: rest
  | .carrier a k, .low b :: rest => .carrier a k :: .low b :: rest
  | g, [] => [g]

/-- The waveform of a list of segments: zero-length segments dropped, equal neighbours merged (R30, R220). It says nothing of the time
after the list. -/
def lineOf : List Segment → List LineSeg
  | [] => []
  | g :: rest => if g.dur = 0 then lineOf rest else mergeInto (lineSeg g) (lineOf rest)

/-- How long a piece lasts, in microseconds. -/
def LineSeg.us : LineSeg → Nat
  | .low us => us
  | .carrier us _ => us

/-- How long a line lasts, in microseconds. -/
def lineLength (line : List LineSeg) : Nat := (line.map LineSeg.us).sum

/-- The carrier of piece `k` of the line, `t` nanoseconds after the piece began, in millionths of a period since a period began: the
phase at the start is free (R220; log entry 17). -/
def carrierPosition (k : Nat) (khz : Khz) (t : Nat) : Nat := t * khz.toNat + Config.carrierPhase k

/-- Whether the carrier of piece `k` is high `t` nanoseconds after the piece began: a rectangle of period `1000 / khz` microseconds, high
for the fraction `DUTY_NUM / DUTY_DEN` of each period (R220). -/
def carrierHigh (cfg : Cfg) (k : Nat) (khz : Khz) (t : Nat) : Bool :=
  decide (carrierPosition k khz t % 1000000 * cfg.dutyDen < 1000000 * cfg.dutyNum)

/-- Whether the carrier of piece `k`, which lasts `us` microseconds, is still high `t` nanoseconds after the piece ended: only in its last
period, and only if that period is not cut short, which is free (R220; log entry 17). -/
def overrunHigh (cfg : Cfg) (k us : Nat) (khz : Khz) (t : Nat) : Bool :=
  !Config.lastPeriodCut k &&
    decide (carrierPosition k khz (1000 * us + t) / 1000000 = (carrierPosition k khz (1000 * us) - 1) / 1000000) &&
    carrierHigh cfg k khz (1000 * us + t)

/-- Whether the line is high `t` nanoseconds into a list of its pieces, the first being piece `k`, while `overrun` says whether the mark
before it is still high at a time. After the last piece the line is low but for that, "provided the send ended with a space"
(R220); where the gate was left on, on carrier `gate`, the carrier runs on: that of the last mark if it has this `khz`, else one
of its own (log entry 25, DEDUCED). -/
def lineHighFrom (cfg : Cfg) (gate : Option Khz) : Nat → (Nat → Bool) → List LineSeg → Nat → Bool
  | k, overrun, [], t =>
    match gate with
    | some khz => carrierHigh cfg k khz t
    | none => overrun t
  | k, overrun, .low us :: rest, t =>
    if t < 1000 * us then overrun t
    else lineHighFrom cfg gate (k + 1) (fun x => overrun (x + 1000 * us)) rest (t - 1000 * us)
  | k, _, .carrier us khz :: rest, t =>
    if t < 1000 * us ∨ rest = [] ∧ gate = some khz then carrierHigh cfg k khz t
    else lineHighFrom cfg gate (k + 1) (overrunHigh cfg k us khz) rest (t - 1000 * us)

/-- Whether the output line is high `t` nanoseconds after a list of segments began (R220): inside a mark the carrier of that merged mark,
low otherwise but for the last period of the mark before (log entry 17). `gate` is how the list leaves the carrier gate: `none` for
off, as every whole send leaves it (R219), else on at some `khz`, as MARK leaves it (R214; log entry 25). -/
def lineHigh (cfg : Cfg) (gate : Option Khz) (trace : List Segment) (t : Nat) : Bool :=
  lineHighFrom cfg gate 0 (fun _ => false) (lineOf trace) t

/-- How the gate stands: the carrier that it lets through, none while it is off (R29). -/
def State.gate (s : State) : Option Khz := if s.txPwmOn then some s.txKhz else none

/-- Whether the output line is high `t` nanoseconds after the first segment began, if nothing more is sent after the trace of the state. -/
def State.lineHigh (s : State) (t : Nat) : Bool := Sys2Proof.Machine.lineHigh s.cfg s.gate s.txTrace t

/-- The duration of a trace in microseconds, `T` of 95_test_vectors.md section 4. -/
def traceLength (trace : List Segment) : Nat := (trace.map fun g => g.dur.toNat).sum

/-- The envelope at time `x`, MARK while the carrier runs; none from the end of the trace on, which the trace does not record. -/
def envelopeAt : List Segment → Nat → Option Level
  | [], _ => none
  | g :: rest, x =>
    if x < g.dur.toNat then some (if g.on then .mark else .space) else envelopeAt rest (x - g.dur.toNat)

/-- `LINE(trace, phase)`: the levels at `phase`, `phase + 50`, … before the end of the trace. -/
def lineLevels (trace : List Segment) (phase : Nat) : List Level :=
  (List.range ((traceLength trace - phase + (usecPerTick - 1)) / usecPerTick)).filterMap
    fun k => envelopeAt trace (phase + usecPerTick * k)

end Sys2Proof.Machine
end

