-- ==== Sys2Proof/Safety.lean ====
section
/-! DEFINITION. The terms in which claims are stated: the invariant of reachable states (10_state.md R41), what stays unchanged, runs of
ticks, useful configurations and unambiguous profiles. -/

namespace Sys2Proof.Machine

/-- The invariant: R41 (I-a) to (I-f) and (I-h), what R218 and R219 say of a send, the widths of the registers, the canonical form of the memories, and the facts about
the capture space that R23 and R24 give. -/
structure State.Inv (s : State) : Prop where
  /-- the configuration is well formed (R9) -/
  cfgWf       : s.cfg.wf = true
  /-- `timer` is `TICK_W` bits wide (R22) -/
  timerWidth  : s.timer < 2 ^ s.cfg.tickW
  /-- the capture space is in canonical form -/
  rawbufWf    : s.rawbuf.wf
  /-- the transmit source space is in canonical form -/
  srcWf       : s.src.wf
  /-- every entry lies below `RAWBUF` and is `TICK_W` bits wide (R23) -/
  entries     : ∀ x ∈ s.rawbuf, x.1 < s.cfg.rawbufCap ∧ x.2 < 2 ^ s.cfg.tickW
  /-- every entry below `rawlen` holds a value (R24) -/
  valid       : ∀ i < s.rawlen, ∃ v, s.rawbuf.read i = some v
  /-- (I-a) -/
  length      : s.rawlen ≤ s.cfg.rawbufCap
  /-- (I-b) -/
  idle        : s.rcvstate = .idle → s.rawlen = 0
  /-- (I-c) -/
  timingMark  : s.rcvstate = .timingMark → s.rawlen % 2 = 1
  /-- (I-d) -/
  timingSpace : s.rcvstate = .timingSpace → s.rawlen % 2 = 0 ∧ 2 ≤ s.rawlen
  /-- (I-e) -/
  stopped     : s.rcvstate = .stopped → 1 ≤ s.rawlen ∧ (s.cfg.rawbufCap ≠ 1 → 2 ≤ s.rawlen)
  /-- (I-f) -/
  gap         : 1 ≤ s.rawlen → ∃ v, s.rawbuf.read 0 = some v ∧ s.cfg.gapTicks ≤ v
  /-- (I-h) -/
  tickMode    : s.rxTickEn = true → s.timerMode = .rxTick ∧ s.txPwmOn = false
  /-- while a send runs there is no tick (R218), and the carrier generator has the timer (R213) -/
  inSend      : s.openSend ≠ none → s.rxTickEn = false ∧ s.timerMode = .txPwm
  /-- outside a send the gate is off (R219) -/
  gate        : s.openSend = none → s.txPwmOn = false

/-- Every element of both memories reads as before. -/
def State.memoriesKept (s t : State) : Prop :=
  (∀ i, t.rawbuf.read i = s.rawbuf.read i) ∧ (∀ i, t.src.read i = s.src.read i)

/-- The receive state is as before: "a capture in progress is frozen where it stands" (R213). -/
def State.receiveKept (s t : State) : Prop :=
  t.rcvstate = s.rcvstate ∧ t.timer = s.timer ∧ t.rawbuf = s.rawbuf ∧ t.rawlen = s.rawlen ∧
    t.blinkEn = s.blinkEn ∧ t.indOut = s.indOut ∧ t.rxPin = s.rxPin

/-- The transmit and shared timer state is as before. -/
def State.transmitKept (s t : State) : Prop :=
  t.rxTickEn = s.rxTickEn ∧ t.timerMode = s.timerMode ∧ t.txKhz = s.txKhz ∧ t.txPwmOn = s.txPwmOn ∧
    t.txTrace = s.txTrace

/-- What stands outside the block is as before: the configuration, the host's array, the last result, whether a send written as
micro-operations is running, the events to come. -/
def State.outsideKept (s t : State) : Prop :=
  t.cfg = s.cfg ∧ t.src = s.src ∧ t.result = s.result ∧ t.openSend = s.openSend ∧ t.inputs = s.inputs

/-- Consecutive TICK steps with the given levels (R14). -/
def runTicks : List Level → State → Host.Outcome State Fault Refusal
  | [], s => .next s
  | l :: ls, s =>
    match exec (.tick l) s with
    | .next t => runTicks ls t
    | .fault f => .fault f
    | .refused r => .refused r

/-- That many steps. -/
def runSteps : Nat → State → Host.Outcome State Fault Refusal
  | 0, s => .next s
  | n + 1, s =>
    match step s with
    | .next t => runSteps n t
    | .fault f => .fault f
    | .refused r => .refused r

/-- The micro-operation of one segment. -/
def segmentOp : Level × Dur → Instr
  | (.mark, d) => .mark d
  | (.space, d) => .space d

/-- A send written as its micro-operations: ENABLE_OUT, the segments in order, `SPACE(0)`, END_OF_SEND (R216, R222). -/
def sendEvents (khz : Khz) (segs : List (Level × Dur)) : List Input :=
  .micro (encode (.enableOut khz)) :: segs.map (fun g => .micro (encode (segmentOp g))) ++
    [.micro (encode (.space 0)), .endSend]

/-- The other level. -/
def otherLevel : Level → Level
  | .mark => .space
  | .space => .mark

/-- The level stream of runs of the given lengths, alternating from a level. -/
def levelRuns : Level → List Nat → List Level
  | _, [] => []
  | l, n :: ns => List.replicate n l ++ levelRuns (otherLevel l) ns

/-- What the end of a send leaves in the shared timer (R219): the tick is back exactly when it was on before and
`TX_END_RX_EN` is RESTORE. -/
def State.timerAfterSend (s t : State) : Prop :=
  (s.cfg.txEndRxEn = .restore ∧ s.rxTickEn = true → t.rxTickEn = true ∧ t.timerMode = .rxTick) ∧
    (¬(s.cfg.txEndRxEn = .restore ∧ s.rxTickEn = true) → t.rxTickEn = false ∧ t.timerMode = .txPwm)

/-- A profile is unambiguous (R189): its two mark windows are disjoint. -/
def unambiguous (cfg : Cfg) (p : Profile) : Prop :=
  windowHi cfg .mark p.zeroMarkUs < windowLo cfg .mark p.oneMarkUs ∨
    windowHi cfg .mark p.oneMarkUs < windowLo cfg .mark p.zeroMarkUs

/-- Every space of a profile can be captured (R9). -/
def spacesCapturable (cfg : Cfg) (p : Profile) : Prop :=
  windowHi cfg .space p.bitSpaceUs ≤ cfg.gapTicks + 1 ∧
    ∀ h ∈ p.header, h.kind = .space → windowHi cfg .space h.us ≤ cfg.gapTicks + 1

/-- A configuration is useful (R9). -/
def useful (cfg : Cfg) : Prop :=
  cfg.wf = true ∧ minRaw ≤ cfg.rawbufCap ∧ spacesCapturable cfg cfg.profileA ∧ spacesCapturable cfg cfg.profileB

end Sys2Proof.Machine
end

