-- ==== Sys2Proof/Certificates/Slice0/Obligations.lean ====
section
/-! DEFINITION. The statements for the provers. Each docstring names the rule of spec/ that the statement formalises; where a clause rests
on a choice of the model, it names the log entry. -/

open Sys2Proof Sys2Proof.Machine

/-! ## Reset and the invariant -/

/-- The reset values that the table of 10_state.md section 9 (R43; the spec's decision D13) gives; no entry of the capture buffer holds a value. The fields to
which the table gives no value (`ind_out`, `rx_pin`, `tx_khz`; log entry 6) are not spoken of. -/
def Obligations.ResetHoldsTheTabulatedValues : Prop :=
  State.reset.rcvstate = .idle ∧ State.reset.timer = 0 ∧ State.reset.rawlen = 0 ∧ State.reset.blinkEn = false ∧
    State.reset.rxTickEn = false ∧ State.reset.timerMode = .off ∧ State.reset.txPwmOn = false ∧
    State.reset.txTrace = [] ∧ ∀ i, memRead State.reset i = .error (.entryWithoutValue i)

/-- The reset state meets the invariant of R41. -/
def Obligations.ResetMeetsTheInvariant : Prop := State.reset.Inv

/-- R41 (an inference of the spec): every step keeps the invariant, whatever event comes next: capacity, the parity of the length in each state, the recorded gap,
the mode of the timer, the widths of the registers, and the canonical form of the memories; and, as R213, R218 and R219 say of a send, that the carrier generator has the timer and no tick runs
inside one, and that the gate is off outside one (how the model knows a send that is written as micro-operations is log entry 3). -/
def Obligations.StepKeepsTheInvariant : Prop :=
  ∀ s t : State, s.Inv → step s = .next t → t.Inv

/-- `rawlen` fits its register: `LEN_W` is the smallest width that holds `RAWBUF` (R8). -/
def Obligations.LengthFitsItsRegister : Prop :=
  ∀ s : State, s.Inv → s.rawlen < 2 ^ s.cfg.lenW ∧ ∀ w, s.cfg.rawbufCap < 2 ^ w → s.cfg.lenW ≤ w

/-! ## TICK -/

/-- R123: at capacity a tick of either level forces STOPPED; the STOPPED arm then takes the level; nothing is written. A tick that
writes the last free entry, from whichever state, does not itself stop. -/
def Obligations.FullBufferForcesStopped : Prop :=
  (∀ (s : State) (l : Level), s.cfg.rawbufCap ≤ s.rawlen →
    ∃ t, exec (.tick l) s = .next t ∧ t.rcvstate = .stopped ∧
      t.timer = (if l = .mark then 0 else (s.timer + 1) % 2 ^ s.cfg.tickW) ∧
      t.rawlen = s.rawlen ∧ ∀ i, t.rawbuf.read i = s.rawbuf.read i) ∧
  (∀ s : State, s.rawlen + 1 = s.cfg.rawbufCap →
    (s.rcvstate = .timingMark → ∃ t, exec (.tick .space) s = .next t ∧ t.rcvstate = .timingSpace ∧
      t.rawlen = s.cfg.rawbufCap ∧ t.rawbuf.read s.rawlen = some ((s.timer + 1) % 2 ^ s.cfg.tickW)) ∧
    (s.rcvstate = .timingSpace → ∃ t, exec (.tick .mark) s = .next t ∧ t.rcvstate = .timingMark ∧
      t.rawlen = s.cfg.rawbufCap ∧ t.rawbuf.read s.rawlen = some ((s.timer + 1) % 2 ^ s.cfg.tickW)) ∧
    (s.rcvstate = .idle → s.rawlen = 0 → s.cfg.gapTicks ≤ (s.timer + 1) % 2 ^ s.cfg.tickW →
      ∃ t, exec (.tick .mark) s = .next t ∧ t.rcvstate = .timingMark ∧
        t.rawlen = s.cfg.rawbufCap ∧ t.rawbuf.read 0 = some ((s.timer + 1) % 2 ^ s.cfg.tickW)))

/-- R125, R126: a MARK tick in IDLE is noise below the gap threshold and starts a capture from it on; the recorded gap counts the
MARK tick itself. -/
def Obligations.IdleMarkIsNoiseOrStartsCapture : Prop :=
  ∀ s : State, s.rcvstate = .idle → s.rawlen < s.cfg.rawbufCap →
    ∃ t, exec (.tick .mark) s = .next t ∧ t.timer = 0 ∧
      ((s.timer + 1) % 2 ^ s.cfg.tickW < s.cfg.gapTicks →
        t.rcvstate = .idle ∧ t.rawlen = s.rawlen ∧ ∀ i, t.rawbuf.read i = s.rawbuf.read i) ∧
      (s.cfg.gapTicks ≤ (s.timer + 1) % 2 ^ s.cfg.tickW →
        t.rcvstate = .timingMark ∧ t.rawlen = 1 ∧ t.rawbuf.read 0 = some ((s.timer + 1) % 2 ^ s.cfg.tickW) ∧
          ∀ i, i ≠ 0 → t.rawbuf.read i = s.rawbuf.read i)

/-- R127, R128, R129 ("beyond" read as strictly greater is the spec's decision D3): while a mark or a space is timed, an edge records the elapsed duration as the next entry and changes over, a tick
without an edge only counts, and a space beyond the gap threshold ends the message without being recorded or reset. -/
def Obligations.TimingTickRecordsOrEndsMessage : Prop :=
  ∀ s : State, s.rawlen < s.cfg.rawbufCap →
    (s.rcvstate = .timingMark →
      (∃ t, exec (.tick .space) s = .next t ∧ t.rcvstate = .timingSpace ∧ t.timer = 0 ∧ t.rawlen = s.rawlen + 1 ∧
        t.rawbuf.read s.rawlen = some ((s.timer + 1) % 2 ^ s.cfg.tickW) ∧
        ∀ i, i ≠ s.rawlen → t.rawbuf.read i = s.rawbuf.read i) ∧
      (∃ t, exec (.tick .mark) s = .next t ∧ t.rcvstate = .timingMark ∧
        t.timer = (s.timer + 1) % 2 ^ s.cfg.tickW ∧ t.rawlen = s.rawlen ∧ ∀ i, t.rawbuf.read i = s.rawbuf.read i)) ∧
    (s.rcvstate = .timingSpace →
      (∃ t, exec (.tick .mark) s = .next t ∧ t.rcvstate = .timingMark ∧ t.timer = 0 ∧ t.rawlen = s.rawlen + 1 ∧
        t.rawbuf.read s.rawlen = some ((s.timer + 1) % 2 ^ s.cfg.tickW) ∧
        ∀ i, i ≠ s.rawlen → t.rawbuf.read i = s.rawbuf.read i) ∧
      (∃ t, exec (.tick .space) s = .next t ∧
        t.rcvstate = (if s.cfg.gapTicks < (s.timer + 1) % 2 ^ s.cfg.tickW then .stopped else .timingSpace) ∧
        t.timer = (s.timer + 1) % 2 ^ s.cfg.tickW ∧ t.rawlen = s.rawlen ∧ ∀ i, t.rawbuf.read i = s.rawbuf.read i))

/-- R130: in STOPPED a MARK tick resets the counter, a SPACE tick counts, and no tick leaves STOPPED or writes the message. -/
def Obligations.StoppedTickOnlyWatchesForBoundary : Prop :=
  ∀ (s : State) (l : Level), s.rcvstate = .stopped →
    ∃ t, exec (.tick l) s = .next t ∧ t.rcvstate = .stopped ∧
      t.timer = (if l = .mark then 0 else (s.timer + 1) % 2 ^ s.cfg.tickW) ∧
      t.rawlen = s.rawlen ∧ ∀ i, t.rawbuf.read i = s.rawbuf.read i

/-- R124: any number of SPACE ticks in IDLE leaves IDLE, the buffer and its length as they are; the counter counts and wraps at
`2^TICK_W`. -/
def Obligations.IdleWithoutMarkStaysIdle : Prop :=
  ∀ (s : State) (n : Nat), s.rcvstate = .idle → s.rawlen < s.cfg.rawbufCap → s.timer < 2 ^ s.cfg.tickW →
    ∃ t, runTicks (List.replicate n .space) s = .next t ∧ t.rcvstate = .idle ∧
      t.timer = (s.timer + n) % 2 ^ s.cfg.tickW ∧ t.rawbuf = s.rawbuf ∧ t.rawlen = s.rawlen

/-- R132 (the spec's decision D11): the indicator follows the level of every tick while it is enabled, in every state of the machine, and is left as it is
otherwise. -/
def Obligations.IndicatorFollowsLevelWhenEnabled : Prop :=
  ∀ (s : State) (l : Level), ∃ t, exec (.tick l) s = .next t ∧
    (s.blinkEn = true → t.indOut = decide (l = .mark)) ∧ (s.blinkEn = false → t.indOut = s.indOut)

/-- R133: TICK is total, raises nothing, and writes no field outside `rcvstate`, `timer`, `rawbuf`, `rawlen`, `ind_out`; of the capture
space it writes at most one entry: the first one when it leaves IDLE, else the one after the valid ones. -/
def Obligations.TickTouchesOnlyCaptureState : Prop :=
  ∀ (s : State) (l : Level), ∃ t, exec (.tick l) s = .next t ∧
    t.blinkEn = s.blinkEn ∧ t.rxPin = s.rxPin ∧ s.transmitKept t ∧ s.outsideKept t ∧
    (∀ i, t.src.read i = s.src.read i) ∧
    ∀ i, i ≠ (if s.rcvstate = .idle then 0 else s.rawlen) → t.rawbuf.read i = s.rawbuf.read i

/-- R131 (c) (an inference of the spec): the message ends on the `(GAP_TICKS + 2)`-th SPACE tick after a mark, with `timer = GAP_TICKS + 1`, and not before. -/
def Obligations.MessageEndsAfterTheGap : Prop :=
  ∀ s : State, s.cfg.wf = true → s.rcvstate = .timingMark → s.rawlen + 1 < s.cfg.rawbufCap →
    (∃ t, runTicks (List.replicate (s.cfg.gapTicks + 1) .space) s = .next t ∧ t.rcvstate = .timingSpace ∧
      t.timer = s.cfg.gapTicks) ∧
    (∃ t, runTicks (List.replicate (s.cfg.gapTicks + 2) .space) s = .next t ∧ t.rcvstate = .stopped ∧
      t.timer = s.cfg.gapTicks + 1 ∧ t.rawlen = s.rawlen + 1)

/-- R131 (an inference of the spec): what the recorded numbers mean. From IDLE, `g` SPACE ticks that make a gap, then marks and spaces of the given run lengths, then
a trailing gap, leave STOPPED with the gap (one more than the SPACE ticks) and exactly those run lengths captured. -/
def Obligations.CaptureRecordsTheRunLengths : Prop :=
  ∀ (s : State) (g post : Nat) (runs : List Nat),
    s.cfg.wf = true → s.rcvstate = .idle → s.rawlen = 0 →
    s.cfg.gapTicks ≤ s.timer + g + 1 → s.timer + g + 1 < 2 ^ s.cfg.tickW →
    runs.length % 2 = 1 → runs.length + 1 ≤ s.cfg.rawbufCap →
    (∀ k n, runs[k]? = some n → 1 ≤ n ∧ (k % 2 = 0 → n < 2 ^ s.cfg.tickW) ∧ (k % 2 = 1 → n ≤ s.cfg.gapTicks + 1)) →
    s.cfg.gapTicks + 2 ≤ post →
    ∃ t, runTicks (List.replicate g .space ++ levelRuns .mark runs ++ List.replicate post .space) s = .next t ∧
      t.rcvstate = .stopped ∧ capturedEntries t = .ok ((s.timer + g + 1) :: runs)

/-! ## INIT, BLINK, RESUME -/

/-- R134 (the spec's decision D12): what INIT writes, and what it leaves. -/
def Obligations.InitRestartsReception : Prop :=
  ∀ (s : State) (pin : Pin), ∃ t, exec (.init pin) s = .next t ∧
    t.rxPin = pin ∧ t.rcvstate = .idle ∧ t.rawlen = 0 ∧ t.timer = 0 ∧ t.timerMode = .rxTick ∧ t.rxTickEn = true ∧
    t.txPwmOn = false ∧
    t.blinkEn = s.blinkEn ∧ t.indOut = s.indOut ∧ t.txKhz = s.txKhz ∧ t.txTrace = s.txTrace ∧ s.memoriesKept t ∧
    s.outsideKept t

/-- R135 (the spec's decision D11): BLINK writes the enable and nothing else, not the indicator output either. -/
def Obligations.BlinkWritesOnlyTheEnable : Prop :=
  ∀ (s : State) (en : Bool), ∃ t, exec (.blink en) s = .next t ∧ t.blinkEn = en ∧
    t.indOut = s.indOut ∧ t.rcvstate = s.rcvstate ∧ t.timer = s.timer ∧ t.rawlen = s.rawlen ∧ t.rxPin = s.rxPin ∧
    s.memoriesKept t ∧ s.transmitKept t ∧ s.outsideKept t

/-- R136 (the spec's decision D9): RESUME discards the message and keeps the counter and the contents of the buffer, in every state. -/
def Obligations.ResumeDiscardsTheMessage : Prop :=
  ∀ s : State, ∃ t, exec .resume s = .next t ∧ t.rcvstate = .idle ∧ t.rawlen = 0 ∧ t.timer = s.timer ∧
    t.blinkEn = s.blinkEn ∧ t.indOut = s.indOut ∧ t.rxPin = s.rxPin ∧ s.memoriesKept t ∧ s.transmitKept t ∧
    s.outsideKept t

/-! ## DECODE and the matchers -/

/-- R162: unless the state is STOPPED, DECODE answers NOT_READY and changes nothing; the result goes to the model's own field
(log entry 5). -/
def Obligations.DecodeBeforeStoppedIsNotReady : Prop :=
  ∀ s : State, s.rcvstate ≠ .stopped → exec .decode s = .next { s with result := some .notReady }

/-- R163: the first profile that accepts gives the result, A before B, with its identifier, its bit count, its value, the reference and the
length; the state stays STOPPED and everything but the result is as before. That a bit count which does not fit the 8 bits of its field leaves that
field free and DECODE still answers READY is the model's choice (log entry 8, DESIGN CHOICE), on which no rule speaks. -/
def Obligations.DecodeReportsTheFirstAcceptingProfile : Prop :=
  ∀ (s : State) (es : List Nat) (n v : Nat), s.rcvstate = .stopped → capturedEntries s = .ok es →
    (matchProfile s.cfg s.cfg.profileA es = some (n, v) → ∃ nb : NBits, (n < 2 ^ 8 → nb.toNat = n) ∧
      exec .decode s = .next { s with result := some (.ready ⟨s.cfg.profileA.id, nb, v, .captureSpace, s.rawlen⟩) }) ∧
    (matchProfile s.cfg s.cfg.profileA es = none → matchProfile s.cfg s.cfg.profileB es = some (n, v) →
      ∃ nb : NBits, (n < 2 ^ 8 → nb.toNat = n) ∧
      exec .decode s = .next { s with result := some (.ready ⟨s.cfg.profileB.id, nb, v, .captureSpace, s.rawlen⟩) })

/-- R164 (the spec's decisions D14, D15): a capture that both profiles reject and that holds at least `MIN_RAW = 6` entries is UNKNOWN, with bit count 0, value 0, the
reference and the length; nothing is discarded. -/
def Obligations.DecodeReportsUnknownCapture : Prop :=
  ∀ (s : State) (es : List Nat), s.rcvstate = .stopped → capturedEntries s = .ok es →
    matchProfile s.cfg s.cfg.profileA es = none → matchProfile s.cfg s.cfg.profileB es = none → 6 ≤ s.rawlen →
    exec .decode s = .next { s with result := some (.ready ⟨.unknown, 0, 0, .captureSpace, s.rawlen⟩) }

/-- R165: a shorter capture that both profiles reject is discarded as RESUME does, and DECODE answers NOT_READY; a second DECODE answers
NOT_READY too. -/
def Obligations.DecodeDiscardsTooShortCapture : Prop :=
  ∀ (s : State) (es : List Nat), s.rcvstate = .stopped → capturedEntries s = .ok es →
    matchProfile s.cfg s.cfg.profileA es = none → matchProfile s.cfg s.cfg.profileB es = none → s.rawlen < 6 →
    ∃ t, exec .decode s = .next t ∧ t = { s with rcvstate := .idle, rawlen := 0, result := some .notReady } ∧
      exec .decode t = .next t

/-- DECODE completes in every state that meets the invariant, and on every path keeps the counter, both memories, the indicator, the pin
and the transmit state; what it may write is the result, and `rcvstate` and `rawlen` through the RESUME of its too-short path
(R160, R161). -/
def Obligations.DecodeCompletesAndKeepsTheRest : Prop :=
  ∀ s : State, s.Inv → ∃ t r, exec .decode s = .next t ∧ t.result = some r ∧
    t.timer = s.timer ∧ t.blinkEn = s.blinkEn ∧ t.indOut = s.indOut ∧ t.rxPin = s.rxPin ∧ s.memoriesKept t ∧
    s.transmitKept t ∧ t.cfg = s.cfg ∧ t.openSend = s.openSend ∧ t.inputs = s.inputs ∧
    (t.rcvstate = s.rcvstate ∧ t.rawlen = s.rawlen ∨
      s.rcvstate = .stopped ∧ s.rawlen < 6 ∧ r = .notReady ∧ t.rcvstate = .idle ∧ t.rawlen = 0)

/-- R160, and R74 (an inference of the spec): DECODE reads `rcvstate`, `rawlen`, the valid entries and the configuration, and nothing else: two states that agree on these
give the same result. In particular it never reads `timer`. -/
def Obligations.DecodeReadsOnlyTheFrozenCapture : Prop :=
  ∀ s s' : State, s'.cfg = s.cfg → s'.rcvstate = s.rcvstate → s'.rawlen = s.rawlen →
    (∀ i, i < s.rawlen → s'.rawbuf.read i = s.rawbuf.read i) →
    ∀ t, exec .decode s = .next t → ∃ t', exec .decode s' = .next t' ∧ t'.result = t.result ∧
      t'.rcvstate = t.rcvstate ∧ t'.rawlen = t.rawlen

/-- R167, R41 (I-g) (inferences of the spec): while the block stays STOPPED, whatever ticks come, the message is untouched and a READY result repeats. -/
def Obligations.StoppedMessageDecodesAgain : Prop :=
  ∀ (s : State) (ls : List Level), s.rcvstate = .stopped →
    ∃ t, runTicks ls s = .next t ∧ t.rcvstate = .stopped ∧ t.rawlen = s.rawlen ∧ t.rawbuf = s.rawbuf ∧
      ∀ u d, exec .decode s = .next u → u.result = some (.ready d) →
        ∃ w, exec .decode t = .next w ∧ w.result = some (.ready d) ∧ w.rcvstate = .stopped ∧ w.rawbuf = t.rawbuf

/-- R181 (the spec's decision D17), R182: the window of a mark and of a space, with inclusive bounds. By the formula the window of a constant is never
empty. Where the configuration substitutes the formula, its own bounds count (log entry 20: how the model holds the configuration
function that R181 asks for). -/
def Obligations.WindowBoundsAreInclusive : Prop :=
  ∀ (cfg : Cfg) (d : Dur) (m : Nat),
    ((∀ w ∈ cfg.windowTable, ¬(w.kind = .mark ∧ w.us = d)) →
      (matchWindow cfg .mark m d = true ↔
        (d.toNat + cfg.markExcessUs) * (100 - cfg.tolPct) / (100 * 50) ≤ m ∧
          m ≤ (d.toNat + cfg.markExcessUs) * (100 + cfg.tolPct) / (100 * 50) + 1)) ∧
    ((∀ w ∈ cfg.windowTable, ¬(w.kind = .space ∧ w.us = d)) →
      (matchWindow cfg .space m d = true ↔
        (d.toNat - cfg.markExcessUs) * (100 - cfg.tolPct) / (100 * 50) ≤ m ∧
          m ≤ (d.toNat - cfg.markExcessUs) * (100 + cfg.tolPct) / (100 * 50) + 1)) ∧
    (∀ k, (∀ w ∈ cfg.windowTable, ¬(w.kind = k ∧ w.us = d)) →
      matchWindow cfg k (windowLo cfg k d) d = true ∧ matchWindow cfg k (windowHi cfg k d) d = true) ∧
    ∀ before w after, cfg.windowTable = before ++ w :: after → (∀ x ∈ before, ¬(x.kind = w.kind ∧ x.us = w.us)) →
      (matchWindow cfg w.kind m w.us = true ↔ w.lo ≤ m ∧ m ≤ w.hi)

/-- R194 (the spec's decision D18): a mark is tested against the one-window first; for an unambiguous profile testing zero first would give the same bit. -/
def Obligations.OneIsTestedBeforeZero : Prop :=
  ∀ (cfg : Cfg) (p : Profile) (m : Nat),
    (matchWindow cfg .mark m p.oneMarkUs = true → classifyMark cfg p m = some true) ∧
    (matchWindow cfg .mark m p.oneMarkUs = false → matchWindow cfg .mark m p.zeroMarkUs = true →
      classifyMark cfg p m = some false) ∧
    (matchWindow cfg .mark m p.oneMarkUs = false → matchWindow cfg .mark m p.zeroMarkUs = false →
      classifyMark cfg p m = none) ∧
    (unambiguous cfg p → matchWindow cfg .mark m p.zeroMarkUs = true → classifyMark cfg p m = some false)

/-- R185, R186, R187, R193: the matcher as a condition on the entries by index. It accepts with `n` bits and value `v` exactly when the buffer
holds the gap, the header and a bit pair, every header element lies in its window, every whole pair has its space and its mark in a window,
`n` counts the whole pairs, and `v` is the bits most significant first, modulo `2^VALUE_W` (the spec's decisions D19, D20). -/
def Obligations.MatcherAcceptsExactlyTheWindows : Prop :=
  ∀ (cfg : Cfg) (p : Profile) (es : List Nat) (n v : Nat),
    matchProfile cfg p es = some (n, v) ↔
      1 + p.header.length + 2 ≤ es.length ∧ n = (es.length - 1 - p.header.length) / 2 ∧
      (∀ k h, p.header[k]? = some h → matchWindow cfg h.kind (es.getD (1 + k) 0) h.us = true) ∧
      (∀ j, j < n →
        matchWindow cfg .space (es.getD (1 + p.header.length + 2 * j) 0) p.bitSpaceUs = true ∧
          (matchWindow cfg .mark (es.getD (2 + p.header.length + 2 * j) 0) p.oneMarkUs = true ∨
            matchWindow cfg .mark (es.getD (2 + p.header.length + 2 * j) 0) p.zeroMarkUs = true)) ∧
      v = (List.range n).foldl
            (fun acc j => 2 * acc + (matchWindow cfg .mark (es.getD (2 + p.header.length + 2 * j) 0) p.oneMarkUs).toNat) 0 %
          2 ^ cfg.valueW

/-- R186 (the spec's decision D20), R68: bits are accumulated most significant first: of `n` bits, bit `i` of the value is the `i`-th from the last, for `i` below the
smaller of `n` and `VALUE_W`, and the bits above are 0; earlier bits beyond the word are shifted out. -/
def Obligations.BitsAccumulateMostSignificantFirst : Prop :=
  ∀ (cfg : Cfg) (bs : List Bool) (i : Nat),
    (bs.foldl (accumulate cfg) 0).testBit i =
      (decide (i < bs.length) && decide (i < cfg.valueW) && bs.getD (bs.length - 1 - i) false)

/-- R192 (an inference of the spec): no capture is accepted by both default profiles. -/
def Obligations.DefaultProfilesExcludeEachOther : Prop :=
  ∀ (es : List Nat) (a b : Nat × Nat), matchProfile Cfg.default defaultProfileA es = some a →
    matchProfile Cfg.default defaultProfileB es ≠ some b

/-- R77, R62 (R62 is an inference of the spec; how the model offers the read is log entry 5): a host read through the reference of a READY result gives the decoded entries for as long as the block stays STOPPED, whatever
ticks come in between; at or past the result's length it faults. -/
def Obligations.ReferenceReadsTheDecodedMessage : Prop :=
  ∀ (s u t : State) (es : List Nat) (d : Decoded) (ls : List Level), s.rcvstate = .stopped → capturedEntries s = .ok es →
    exec .decode s = .next u → u.result = some (.ready d) → runTicks ls u = .next t →
    d.rawlen = es.length ∧
      (∀ i v, es[i]? = some v → hostReadRef (.ready d) t i = .next v) ∧
      ∀ i, d.rawlen ≤ i → hostReadRef (.ready d) t i = .fault (.pastReference i)

/-- R292 (an inference of the spec), R38, R62: a reference that the host still holds reads the live buffer. Below its length and the live one it reads the entry that
stands there now, at or past the live length it faults, and a DECODE that answers NOT_READY in between takes nothing from it. After
RESUME there is no live entry; the tick that starts the next capture puts its gap where the old entry 0 was. A NOT_READY result has
no reference (how the model offers the read is log entry 5). -/
def Obligations.StaleReferenceReadsTheLiveBuffer : Prop :=
  ∀ (d : Decoded) (s : State) (i : Nat),
    (∀ v, i < d.rawlen → i < s.rawlen → s.rawbuf.read i = some v → hostReadRef (.ready d) s i = .next v) ∧
    (i < d.rawlen → s.rawlen ≤ i → hostReadRef (.ready d) s i = .fault (.entryWithoutValue i)) ∧
    (s.rcvstate ≠ .stopped → ∃ u, exec .decode s = .next u ∧ u.result = some .notReady ∧
      hostReadRef (.ready d) u i = hostReadRef (.ready d) s i) ∧
    (i < d.rawlen → ∃ u, exec .resume s = .next u ∧ hostReadRef (.ready d) u i = .fault (.entryWithoutValue i)) ∧
    (0 < d.rawlen → s.rcvstate = .idle → s.rawlen < s.cfg.rawbufCap → s.cfg.gapTicks ≤ (s.timer + 1) % 2 ^ s.cfg.tickW →
      ∃ u, exec (.tick .mark) s = .next u ∧ hostReadRef (.ready d) u 0 = .next ((s.timer + 1) % 2 ^ s.cfg.tickW)) ∧
    hostReadRef .notReady s i = .refused .noReference

/-! ## The sender -/

/-- R213 (the spec's decision D25): ENABLE_OUT hands the timer to the carrier generator with the gate off, emits nothing, and freezes the receive machine where it
stands; `khz = 0` is refused. -/
def Obligations.EnableOutTakesTheTimer : Prop :=
  ∀ (s : State) (khz : Khz),
    (khz ≠ 0 → ∃ t, exec (.enableOut khz) s = .next t ∧ t.rxTickEn = false ∧ t.timerMode = .txPwm ∧ t.txKhz = khz ∧
      t.txPwmOn = false ∧ t.txTrace = s.txTrace ∧ s.receiveKept t ∧ s.memoriesKept t ∧ s.outsideKept t) ∧
    exec (.enableOut 0) s = .refused .zeroCarrier

/-- R214, R212 (R212 is the spec's decision D30): MARK turns the gate on, leaves it on, and emits one segment at the current carrier. -/
def Obligations.MarkTurnsTheGateOn : Prop :=
  ∀ (s : State) (d : Dur), ∃ t, exec (.mark d) s = .next t ∧ t.txPwmOn = true ∧
    t.txTrace = s.txTrace ++ [⟨true, d, s.txKhz⟩] ∧ t.rxTickEn = s.rxTickEn ∧ t.timerMode = s.timerMode ∧
    t.txKhz = s.txKhz ∧ s.receiveKept t ∧ s.memoriesKept t ∧ s.outsideKept t

/-- R215: SPACE turns the gate off, the line is low, and it emits one segment at the current carrier. -/
def Obligations.SpaceTurnsTheGateOff : Prop :=
  ∀ (s : State) (d : Dur), ∃ t, exec (.space d) s = .next t ∧ t.txPwmOn = false ∧ t.txOut = .low ∧
    t.txTrace = s.txTrace ++ [⟨false, d, s.txKhz⟩] ∧ t.rxTickEn = s.rxTickEn ∧ t.timerMode = s.timerMode ∧
    t.txKhz = s.txKhz ∧ s.receiveKept t ∧ s.memoriesKept t ∧ s.outsideKept t

/-- R216, R219 (the end of a send is the spec's decision D26): SEND_RAW emits the array's durations, even index a mark and odd a space, then a zero-length space; the receive machine is
frozen across it, the line is low after it, and the timer is given back as `TX_END_RX_EN` says. An element that the host stored is emitted as
stored; that one the host never stored has some duration is the model's choice (log entry 4). -/
def Obligations.SendRawEmitsTheArray : Prop :=
  ∀ (s : State) (buf : Nat) (count : Count) (khz : Khz), khz ≠ 0 →
    ∃ (t : State) (ds : List Dur), exec (.sendRaw buf count khz) s = .next t ∧ ds.length = count.toNat ∧
      (∀ i d, i < count.toNat → s.src.read (buf + i) = some d → ds[i]? = some d) ∧
      t.txTrace = s.txTrace ++ ds.mapIdx (fun i d => ⟨decide (i % 2 = 0), d, khz⟩) ++ [⟨false, 0, khz⟩] ∧
      t.txKhz = khz ∧ t.txPwmOn = false ∧ t.txOut = .low ∧ s.timerAfterSend t ∧ s.receiveKept t ∧ s.memoriesKept t ∧
      s.outsideKept t

/-- R99, R250 (U6): a carrier of 0 is the one stop of SEND_RAW. It answers a next state otherwise, whatever the host has stored (what an
element never stored reads as is free, log entry 4). -/
def Obligations.SendRawStopsOnlyWithoutACarrier : Prop :=
  ∀ (s : State) (buf : Nat) (count : Count) (khz : Khz),
    exec (.sendRaw buf count 0) s = .refused .zeroCarrier ∧ (khz ≠ 0 → ∃ t, exec (.sendRaw buf count khz) s = .next t)

/-- R217, R222, R219 (the spec's decisions D22, D24, D26, D31): SEND_A emits the header of `PROFILE_A`, then for each of the `nbits` bits, most significant first, the inter-bit space
and the mark of that bit, then a zero-length space; bits of the value from `VALUE_W` up are 0. -/
def Obligations.SendAEmitsHeaderAndBits : Prop :=
  ∀ (s : State) (value : Nat) (nbits : NBits), s.cfg.profileA.carrierKhz ≠ 0 →
    ∃ t, exec (.sendA value nbits) s = .next t ∧
      t.txTrace = s.txTrace ++
        s.cfg.profileA.header.map (fun h => ⟨decide (h.kind = .mark), h.us, s.cfg.profileA.carrierKhz⟩) ++
        (List.range nbits.toNat).flatMap (fun j =>
          [⟨false, s.cfg.profileA.bitSpaceUs, s.cfg.profileA.carrierKhz⟩,
           ⟨true, if nbits.toNat - 1 - j < s.cfg.valueW ∧ value / 2 ^ (nbits.toNat - 1 - j) % 2 = 1
              then s.cfg.profileA.oneMarkUs else s.cfg.profileA.zeroMarkUs, s.cfg.profileA.carrierKhz⟩]) ++
        [⟨false, 0, s.cfg.profileA.carrierKhz⟩] ∧
      t.txKhz = s.cfg.profileA.carrierKhz ∧ t.txPwmOn = false ∧ t.txOut = .low ∧ s.timerAfterSend t ∧
      s.receiveKept t ∧ s.memoriesKept t ∧ s.outsideKept t

/-- R221, R222, R219 (the spec's decisions D22, D24, D26, D31): SEND_B, the same with `PROFILE_B`. -/
def Obligations.SendBEmitsHeaderAndBits : Prop :=
  ∀ (s : State) (value : Nat) (nbits : NBits), s.cfg.profileB.carrierKhz ≠ 0 →
    ∃ t, exec (.sendB value nbits) s = .next t ∧
      t.txTrace = s.txTrace ++
        s.cfg.profileB.header.map (fun h => ⟨decide (h.kind = .mark), h.us, s.cfg.profileB.carrierKhz⟩) ++
        (List.range nbits.toNat).flatMap (fun j =>
          [⟨false, s.cfg.profileB.bitSpaceUs, s.cfg.profileB.carrierKhz⟩,
           ⟨true, if nbits.toNat - 1 - j < s.cfg.valueW ∧ value / 2 ^ (nbits.toNat - 1 - j) % 2 = 1
              then s.cfg.profileB.oneMarkUs else s.cfg.profileB.zeroMarkUs, s.cfg.profileB.carrierKhz⟩]) ++
        [⟨false, 0, s.cfg.profileB.carrierKhz⟩] ∧
      t.txKhz = s.cfg.profileB.carrierKhz ∧ t.txPwmOn = false ∧ t.txOut = .low ∧ s.timerAfterSend t ∧
      s.receiveKept t ∧ s.memoriesKept t ∧ s.outsideKept t

/-- R30, R220 (the spec's decisions D25, D30): the line of a trace has no piece of no length and no two neighbours of one kind, and lasts as long as the trace; at
every moment of every segment it carries that segment's carrier if the segment is on and is low if it is off, which is the envelope there.
That marks with unlike carriers stay two pieces is the model's choice (log entry 24). So is the last clause, that the envelope of a trace has no
level at or after its end (log entry 25, DEDUCED): section 4 of 95_test_vectors.md defines the envelope for `0 <= x < T` only, while
R220 reads the line as low after a send. -/
def Obligations.LineMergesTheTrace : Prop :=
  ∀ trace : List Segment,
    (∀ us, LineSeg.low us ∈ lineOf trace → 0 < us) ∧ (∀ us k, LineSeg.carrier us k ∈ lineOf trace → 0 < us) ∧
    (∀ (i : Nat) (a b : LineSeg), (lineOf trace)[i]? = some a → (lineOf trace)[i + 1]? = some b →
      (∀ x y, ¬(a = .low x ∧ b = .low y)) ∧ ∀ x y k, ¬(a = .carrier x k ∧ b = .carrier y k)) ∧
    ((lineOf trace).map fun g => match g with | .low us => us | .carrier us _ => us).sum = traceLength trace ∧
    (∀ (before after : List Segment) (g : Segment) (x : Nat), trace = before ++ g :: after → x < g.dur.toNat →
      envelopeAt trace (traceLength before + x) = some (if g.on then .mark else .space) ∧
      ∃ pre piece post, lineOf trace = pre ++ piece :: post ∧ lineLength pre ≤ traceLength before + x ∧
        traceLength before + x < lineLength pre + piece.us ∧
        (g.on = true → ∃ us, piece = .carrier us g.khz) ∧ (g.on = false → ∃ us, piece = .low us)) ∧
    ∀ y, traceLength trace ≤ y → envelopeAt trace y = none

/-- R223 (an inference of the spec): sender and matcher are inverse. For an unambiguous profile, entries that lie in the windows of the segments `SEND_PROFILE` emits for
`W` bits of a value `V < 2^W` are accepted with exactly `W` and `V`. -/
def Obligations.MatcherInvertsTheSender : Prop :=
  ∀ (cfg : Cfg) (p : Profile) (V W : Nat) (es : List Nat), unambiguous cfg p → 1 ≤ W → W ≤ cfg.valueW → V < 2 ^ W →
    es.length = 1 + p.header.length + 2 * W →
    (∀ k g, (profileSegments cfg p V W)[k]? = some g → matchWindow cfg g.1 (es.getD (1 + k) 0) g.2 = true) →
    matchProfile cfg p es = some (W, V)

/-- R223, the source's round trip (an inference of the spec; the sampling is its decision D32): SEND_A of a value, its line sampled at any phase by an ideal receiver, between enough idle ticks, fed to TICK
from IDLE, and DECODE gives the identifier of `PROFILE_A`, the bit count and the value back. Stated for useful configurations whose `PROFILE_A` is unambiguous
and whose durations in it are whole numbers of ticks inside their windows, as the default's are. -/
def Obligations.SendAThenReceiveRoundTrip : Prop :=
  ∀ (sender sender' receiver : State) (V W phase pre post : Nat), useful receiver.cfg → sender.cfg = receiver.cfg →
    unambiguous receiver.cfg receiver.cfg.profileA →
    (∀ g : Level × Dur, (g ∈ receiver.cfg.profileA.header.map (fun h => (h.kind, h.us)) ∨
        g ∈ [(Level.space, receiver.cfg.profileA.bitSpaceUs), (Level.mark, receiver.cfg.profileA.oneMarkUs),
             (Level.mark, receiver.cfg.profileA.zeroMarkUs)]) →
      g.2.toNat % 50 = 0 ∧ 0 < g.2.toNat ∧ g.2.toNat / 50 < 2 ^ receiver.cfg.tickW ∧
        matchWindow receiver.cfg g.1 (g.2.toNat / 50) g.2 = true) →
    1 ≤ W → W < 2 ^ 8 → W ≤ receiver.cfg.valueW → V < 2 ^ W →
    1 + receiver.cfg.profileA.header.length + 2 * W ≤ receiver.cfg.rawbufCap →
    phase < 50 → receiver.rcvstate = .idle → receiver.rawlen = 0 →
    receiver.cfg.gapTicks ≤ receiver.timer + pre + 1 → receiver.timer + pre + 1 < 2 ^ receiver.cfg.tickW →
    receiver.cfg.gapTicks + 2 ≤ post →
    exec (.sendA V (BitVec.ofNat 8 W)) sender = .next sender' →
    ∃ heard decoded,
      runTicks (List.replicate pre .space ++ lineLevels (sender'.txTrace.drop sender.txTrace.length) phase ++
        List.replicate post .space) receiver = .next heard ∧
      exec .decode heard = .next decoded ∧
      decoded.result = some (.ready ⟨receiver.cfg.profileA.id, BitVec.ofNat 8 W, V, .captureSpace,
        1 + receiver.cfg.profileA.header.length + 2 * W⟩)

/-! ## The whole machine -/

/-- R20, the table of writers: an operation that changes a field is one of the operations that write it. -/
def Obligations.FieldsHaveOnlyTheirWriters : Prop :=
  ∀ (i : Instr) (s t : State), exec i s = .next t →
    (t.rcvstate ≠ s.rcvstate → i.mnemonic ∈ ["TICK", "RESUME", "INIT", "DECODE"]) ∧
    (t.timer ≠ s.timer → i.mnemonic ∈ ["TICK", "INIT"]) ∧
    (t.rawbuf ≠ s.rawbuf → i.mnemonic ∈ ["TICK"]) ∧
    (t.rawlen ≠ s.rawlen → i.mnemonic ∈ ["TICK", "RESUME", "INIT", "DECODE"]) ∧
    (t.blinkEn ≠ s.blinkEn → i.mnemonic ∈ ["BLINK"]) ∧
    (t.indOut ≠ s.indOut → i.mnemonic ∈ ["TICK"]) ∧
    (t.rxPin ≠ s.rxPin → i.mnemonic ∈ ["INIT"]) ∧
    (t.rxTickEn ≠ s.rxTickEn → i.mnemonic ∈ ["INIT", "ENABLE_OUT", "SEND_RAW", "SEND_A", "SEND_B"]) ∧
    (t.timerMode ≠ s.timerMode → i.mnemonic ∈ ["INIT", "ENABLE_OUT", "SEND_RAW", "SEND_A", "SEND_B"]) ∧
    (t.txKhz ≠ s.txKhz → i.mnemonic ∈ ["ENABLE_OUT", "SEND_RAW", "SEND_A", "SEND_B"]) ∧
    (t.txPwmOn ≠ s.txPwmOn → i.mnemonic ∈ ["MARK", "SPACE", "ENABLE_OUT", "INIT", "SEND_RAW", "SEND_A", "SEND_B"]) ∧
    (t.txTrace ≠ s.txTrace → i.mnemonic ∈ ["MARK", "SPACE", "SEND_RAW", "SEND_A", "SEND_B"]) ∧
    (t.result ≠ s.result → i.mnemonic ∈ ["DECODE"]) ∧
    t.cfg = s.cfg ∧ t.src = s.src ∧ t.openSend = s.openSend ∧ t.inputs = s.inputs

/-- R212, R30 (the spec's decision D30): nothing but new segments at its end ever happens to the transmit trace, and no step changes the configuration. -/
def Obligations.StepOnlyExtendsTheTrace : Prop :=
  ∀ s t : State, step s = .next t → (∃ more, t.txTrace = s.txTrace ++ more) ∧ t.cfg = s.cfg

/-- R250, R133: no operation of the block raises anything. In a state that meets the invariant every legal instruction answers a next state. -/
def Obligations.LegalInstructionsComplete : Prop :=
  ∀ (s : State) (i : Instr), s.Inv → i.legal = true → ∃ t, exec i s = .next t

/-- R250: no step faults from a state that meets the invariant, whatever event comes next. -/
def Obligations.StepNeverFaults : Prop :=
  ∀ (s : State) (f : Fault), s.Inv → step s ≠ .fault f

/-- R42 (the spec's decision D34): a tick that falls while `rx_tick_en = 0` changes nothing and is not delivered later. -/
def Obligations.DisabledTickIsLost : Prop :=
  ∀ (s : State) (high : List Pin) (rest : List Input), s.cfg.wf = true → s.rxTickEn = false →
    s.inputs = .strobe high :: rest → step s = .next { s with inputs := rest }

/-- A step takes the next event and runs the instruction it is: a command on the host port while no send runs, a micro-operation of a send
that runs, the ENABLE_OUT that begins one, or a tick with the level that the sampled pin shows (R93, R94, R120; the presentation of the
events is the model's, log entries 2, 3). -/
def Obligations.StepRunsTheDecodedInstruction : Prop :=
  ∀ (s : State) (w : PortWord) (high : List Pin) (rest : List Input) (i : Instr), s.cfg.wf = true →
    (s.inputs = .host w :: rest → s.openSend = none → decode s.cfg w = .ok i → i.isPublic = true →
      step s = exec i { s with inputs := rest }) ∧
    (s.inputs = .micro w :: rest → s.openSend ≠ none → decode s.cfg w = .ok i → i.isMicro = true →
      step s = exec i { s with inputs := rest }) ∧
    (s.inputs = .micro w :: rest → s.openSend = none → decode s.cfg w = .ok i → i.mnemonic = "ENABLE_OUT" →
      step s = exec i { s with inputs := rest, openSend := some s.rxTickEn }) ∧
    (s.inputs = .strobe high :: rest → s.rxTickEn = true →
      step s = exec (.tick (if (s.rxPin ∈ high) = (s.cfg.rxMarkLevel = true) then .mark else .space))
        { s with inputs := rest }) ∧
    (s.inputs = [] → step s = .next s)

/-- The host's own store into its array, while no send runs, changes that element and nothing else (R60 (b); log entry 4). -/
def Obligations.HostStoreWritesItsArray : Prop :=
  ∀ (s : State) (a : Nat) (d : Dur) (rest : List Input), s.cfg.wf = true → s.openSend = none →
    s.inputs = .store a d :: rest →
    ∃ t, step s = .next t ∧ t.src.read a = some d ∧ (∀ j, j ≠ a → t.src.read j = s.src.read j) ∧
      (∀ i, t.rawbuf.read i = s.rawbuf.read i) ∧ s.receiveKept t ∧ s.transmitKept t ∧ t.cfg = s.cfg ∧
      t.result = s.result ∧ t.openSend = none ∧ t.inputs = rest

/-- R218: from the ENABLE_OUT of a send to its END_OF_SEND no TICK occurs and the host issues no other command. For a send that is written as
micro-operations the model refuses the host's command and the host's store there, and a strobe is lost (how such a send is presented is
the model's choice, log entry 3). -/
def Obligations.SendBlocksTheHostAndTheTick : Prop :=
  ∀ (s : State) (w : PortWord) (a : Nat) (d : Dur) (high : List Pin) (rest : List Input), s.Inv → s.openSend ≠ none →
    (s.inputs = .host w :: rest → step s = .refused .hostBlocked) ∧
    (s.inputs = .store a d :: rest → step s = .refused .hostBlocked) ∧
    (s.inputs = .strobe high :: rest → step s = .next { s with inputs := rest })

/-- R219 (the spec's decision D26): the end of a send that is written as micro-operations gives the timer back exactly when the tick was on before the send and
`TX_END_RX_EN` is RESTORE, and changes nothing else; with the gate on, which R219 excludes, and outside a send it is refused (log
entry 3). -/
def Obligations.EndOfSendGivesTheTimerBack : Prop :=
  ∀ (s : State) (rest : List Input), s.cfg.wf = true → s.inputs = .endSend :: rest →
    (∀ prev, s.openSend = some prev → s.txPwmOn = false →
      ∃ t, step s = .next t ∧ t.openSend = none ∧
        (s.cfg.txEndRxEn = .restore ∧ prev = true → t.rxTickEn = true ∧ t.timerMode = .rxTick) ∧
        (¬(s.cfg.txEndRxEn = .restore ∧ prev = true) → t.rxTickEn = s.rxTickEn ∧ t.timerMode = s.timerMode) ∧
        t.txKhz = s.txKhz ∧ t.txPwmOn = false ∧ t.txTrace = s.txTrace ∧ s.receiveKept t ∧ s.memoriesKept t ∧
        t.cfg = s.cfg ∧ t.result = s.result ∧ t.inputs = rest) ∧
    (s.openSend ≠ none → s.txPwmOn = true → step s = .refused .gateLeftOn) ∧
    (s.openSend = none → step s = .refused .outsideSend)

/-- R31 (an inference of the spec), R216, R222: a send that runs as one step and the same send as a sequence of micro-operations, its END_OF_SEND last, end in the same state (the
presentation of the sequence is the model's, log entries 3, 13). -/
def Obligations.SendIsItsMicroOperations : Prop :=
  ∀ (s t : State) (rest : List Input), s.cfg.wf = true → s.openSend = none →
    (∀ (value : Nat) (nbits : NBits),
      s.inputs = sendEvents s.cfg.profileA.carrierKhz (profileSegments s.cfg s.cfg.profileA value nbits.toNat) ++ rest →
      exec (.sendA value nbits) { s with inputs := rest } = .next t →
      runSteps ((profileSegments s.cfg s.cfg.profileA value nbits.toNat).length + 3) s = .next t) ∧
    (∀ (value : Nat) (nbits : NBits),
      s.inputs = sendEvents s.cfg.profileB.carrierKhz (profileSegments s.cfg s.cfg.profileB value nbits.toNat) ++ rest →
      exec (.sendB value nbits) { s with inputs := rest } = .next t →
      runSteps ((profileSegments s.cfg s.cfg.profileB value nbits.toNat).length + 3) s = .next t) ∧
    (∀ (buf : Nat) (count : Count) (khz : Khz),
      s.inputs = sendEvents khz (rawSegments .mark (readSource s buf count.toNat)) ++ rest →
      exec (.sendRaw buf count khz) { s with inputs := rest } = .next t →
      runSteps (count.toNat + 3) s = .next t)

/-- R99 (the spec's decision D28): on the host port, while no send runs, the reserved and the internal opcodes and the tick event are refused whatever stands on the
operand ports. R99 says of a number wider than its port only that it cannot be expressed; that such a word is refused is the model's choice
(log entry 9, DESIGN CHOICE), and so are the opcodes from 16 up. -/
def Obligations.HostPortRefusesReservedAndInternal : Prop :=
  ∀ (s : State) (w : PortWord) (rest : List Input), s.cfg.wf = true → s.openSend = none → s.inputs = .host w :: rest →
    (∀ op, w.op = some op → (op = 0 ∨ 11 ≤ op ∧ op ≤ 15) → step s = .refused (.reservedOpcode (BitVec.ofNat 4 op))) ∧
    (∀ op, w.op = some op → 8 ≤ op → op ≤ 10 →
      ∃ r, step s = .refused r ∧ ∀ i, decode s.cfg w = .ok i → r = .notAHostCommand) ∧
    (w.op = none → ∃ r, step s = .refused r ∧ ∀ i, decode s.cfg w = .ok i → r = .notAHostCommand) ∧
    (∀ op, w.op = some op → 16 ≤ op → step s = .refused (.undecodable (.opcodeTooWide op))) ∧
    (∀ e, decode s.cfg w = .error e → step s = .refused (.undecodable e))

/-- R96, R214: in the place of a micro-operation nothing else runs, and MARK and SPACE need "an ENABLE_OUT earlier in the same send"; a word that
does not decode is refused by its reason. How a send is presented is the model's choice (log entry 3), and so is the refusal of a word
wider than its port (log entry 9). -/
def Obligations.SequencerRefusesWhatIsNoSend : Prop :=
  ∀ (s : State) (w : PortWord) (rest : List Input), s.cfg.wf = true → s.inputs = .micro w :: rest →
    (∀ i, decode s.cfg w = .ok i → i.mnemonic ∉ ["ENABLE_OUT", "MARK", "SPACE"] → step s = .refused .notAMicroOperation) ∧
    (∀ i, decode s.cfg w = .ok i → i.mnemonic ∈ ["MARK", "SPACE"] → s.openSend = none → step s = .refused .outsideSend) ∧
    (∀ e, decode s.cfg w = .error e → step s = .refused (.undecodable e))

/-- R99 (the spec's decision D28): a reserved opcode has no step and no meaning. -/
def Obligations.ReservedOpcodesAreRefused : Prop :=
  ∀ s : State,
    exec .reserved0000 s = .refused (.reservedOpcode 0b0000#4) ∧ exec .reserved1011 s = .refused (.reservedOpcode 0b1011#4) ∧
    exec .reserved1100 s = .refused (.reservedOpcode 0b1100#4) ∧ exec .reserved1101 s = .refused (.reservedOpcode 0b1101#4) ∧
    exec .reserved1110 s = .refused (.reservedOpcode 0b1110#4) ∧ exec .reserved1111 s = .refused (.reservedOpcode 0b1111#4)

/-- R9, R189 (R9 is an inference of the spec): a step refuses exactly the configurations that fail a clause of well-formedness: those of R9, and for both
profiles those of R189: an odd header whose kinds alternate from MARK, every space constant above `MARK_EXCESS_US`, and a carrier. -/
def Obligations.IllFormedConfigurationIsRefused : Prop :=
  ∀ s : State, step s = .refused .illFormedConfig ↔
    ¬(1 ≤ s.cfg.rawbufCap ∧ 1 ≤ s.cfg.gapTicks ∧ s.cfg.gapTicks + 1 < 2 ^ s.cfg.tickW ∧ s.cfg.tolPct < 100 ∧
      ∀ p, p = s.cfg.profileA ∨ p = s.cfg.profileB →
        p.header.length % 2 = 1 ∧ (∀ k h, p.header[k]? = some h → (h.kind = .mark ↔ k % 2 = 0)) ∧
        (∀ h ∈ p.header, h.kind = .space → s.cfg.markExcessUs < h.us.toNat) ∧
        s.cfg.markExcessUs < p.bitSpaceUs.toNat ∧ 1 ≤ p.carrierKhz.toNat)

/-! ## Encodings -/

/-- R95, R96, R99 (the spec's decisions D27, D28): decoding the encoding of an instruction whose operands fit their ports gives it back, for every instruction and every
value of every operand. -/
def Obligations.DecodeInvertsEncode : Prop :=
  ∀ (cfg : Cfg) (i : Instr), i.fits cfg = true → decode cfg (encode i) = .ok i

/-- R95, R96 (the spec's decision D27): what decodes to an instruction presents the same opcode, or the tick strobe, as that instruction's own encoding, the operands fit,
and every operand port that the format uses holds what the encoding puts there; the ports a format does not use are ignored
(log entry 9). -/
def Obligations.EncodeInvertsDecode : Prop :=
  ∀ (cfg : Cfg) (w : PortWord) (i : Instr), decode cfg w = .ok i →
    i.fits cfg = true ∧ (encode i).op = w.op ∧
      (i.mnemonic ∈ ["INIT", "BLINK", "ENABLE_OUT", "MARK", "SPACE", "TICK"] → (encode i).arg0 = w.arg0) ∧
      (i.mnemonic ∈ ["SEND_A", "SEND_B"] → (encode i).arg0 = w.arg0 ∧ (encode i).arg1 = w.arg1) ∧
      (i.mnemonic ∈ ["SEND_RAW"] →
        (encode i).arg0 = w.arg0 ∧ (encode i).arg1 = w.arg1 ∧ (encode i).arg2 = w.arg2)

/-- Words written out from the tables of R95, R96 (the spec's decision D27) and the programs of 95_test_vectors.md section 3 decode to the instructions they stand for. -/
def Obligations.WrittenOutWordsDecode : Prop :=
  decode Cfg.default ⟨some 0b0001, 0x02, 0, 0⟩ = .ok (.init 2) ∧
  decode Cfg.default ⟨some 0b0010, 0x1, 0, 0⟩ = .ok (.blink true) ∧
  decode Cfg.default ⟨some 0b0100, 0, 0, 0⟩ = .ok .decode ∧
  decode Cfg.default ⟨some 0b0101, 0, 0x03, 0x26⟩ = .ok (.sendRaw 0 3 38) ∧
  decode Cfg.default ⟨some 0b0110, 0x00000055, 0x07, 0⟩ = .ok (.sendA 0x55 7) ∧
  decode Cfg.default ⟨some 0b1001, 2400, 0, 0⟩ = .ok (.mark 2400) ∧
  decode Cfg.default ⟨none, 1, 0, 0⟩ = .ok (.tick .mark)

/-- R90, R91, R92, R93 (the spec's decisions D10, D27): the codes of the enumerations; all four state codes are used, and protocol code `11` is never produced. -/
def Obligations.EnumerationCodes : Prop :=
  RcvState.code .idle = 0b00#2 ∧ RcvState.code .timingMark = 0b01#2 ∧ RcvState.code .timingSpace = 0b10#2 ∧
  RcvState.code .stopped = 0b11#2 ∧ (∀ c : BitVec 2, ∃ r : RcvState, r.code = c) ∧
  Proto.code .unknown = 0b00#2 ∧ Proto.code .protoA = 0b01#2 ∧ Proto.code .protoB = 0b10#2 ∧
  (∀ p : Proto, p.code ≠ 0b11#2) ∧
  DecodeResult.statusCode .notReady = 0#1 ∧ (∀ d, DecodeResult.statusCode (.ready d) = 1#1) ∧
  Level.code .mark = 1 ∧ Level.code .space = 0 ∧
  TimerMode.code .off = 0b00#2 ∧ TimerMode.code .rxTick = 0b01#2 ∧ TimerMode.code .txPwm = 0b10#2
end

