-- ==== Sys2Proof/Laws/Memory.lean ====
section
/-! SUPPORT. The laws of an element-addressed memory: a read after a write, and that a write keeps the canonical form. -/

namespace Sys2Proof.Machine

variable {α : Type}

@[simp] theorem Memory.read_nil (a : Nat) : Memory.read ([] : Memory α) a = none := rfl

/-- A read after a write to the same index gives what was written; a write leaves every other index alone. -/
theorem Memory.read_write (m : Memory α) (a j : Nat) (v : α) :
    (m.write a v).read j = if j = a then some v else m.read j := by
  induction m with
  | nil => simp [Memory.write, Memory.read]
  | cons x rest ih =>
    obtain ⟨b, w⟩ := x
    unfold Memory.write
    split_ifs with h1 h2 <;> simp only [Memory.read] at * <;> split_ifs at * <;> simp_all

@[simp] theorem Memory.read_write_same (m : Memory α) (a : Nat) (v : α) : (m.write a v).read a = some v := by
  simp [Memory.read_write]

theorem Memory.read_write_other (m : Memory α) {a j : Nat} (v : α) (h : j ≠ a) :
    (m.write a v).read j = m.read j := by
  simp [Memory.read_write, h]

/-- What a write can put into the list: the new pair, or a pair that was there. -/
theorem Memory.mem_write {m : Memory α} {a : Nat} {v : α} {x : Nat × α} (h : x ∈ m.write a v) :
    x = (a, v) ∨ x ∈ m := by
  induction m with
  | nil => simpa [Memory.write] using h
  | cons y rest ih =>
    obtain ⟨b, w⟩ := y
    unfold Memory.write at h
    split_ifs at h with h1 h2
    · simpa using h
    · simp only [List.mem_cons] at h ⊢
      tauto
    · simp only [List.mem_cons] at h ⊢
      rcases h with h | h
      · exact .inr (.inl h)
      · rcases ih h with h | h
        · exact .inl h
        · exact .inr (.inr h)

/-- A write keeps the canonical form. -/
theorem Memory.write_wf {m : Memory α} (hm : m.wf) (a : Nat) (v : α) : (m.write a v).wf := by
  induction m with
  | nil => simp [Memory.write, Memory.wf]
  | cons y rest ih =>
    obtain ⟨b, w⟩ := y
    obtain ⟨hhead, htail⟩ := List.pairwise_cons.1 hm
    unfold Memory.write
    split_ifs with h1 h2
    · refine List.pairwise_cons.2 ⟨fun x hx => ?_, hm⟩
      rcases List.mem_cons.1 hx with rfl | hx
      · exact h1
      · exact Nat.lt_trans h1 (hhead x hx)
    · subst h2
      exact List.pairwise_cons.2 ⟨hhead, htail⟩
    · refine List.pairwise_cons.2 ⟨fun x hx => ?_, ih htail⟩
      rcases Memory.mem_write hx with rfl | hx
      · show b < a
        omega
      · exact hhead x hx

theorem Memory.nil_wf : Memory.wf ([] : Memory α) := List.Pairwise.nil

end Sys2Proof.Machine
end

