-- ==== Sys2Proof/Laws/State.lean ====
section
/-! SUPPORT. What each named update of the state does to each field: one lemma a field, so that no later proof unfolds an
update. -/

namespace Sys2Proof.Machine

/-! ### `setIndicator` -/

@[simp] theorem setIndicator_cfg (l : Level) (s : State) : (setIndicator l s).cfg = s.cfg := rfl
@[simp] theorem setIndicator_rcvstate (l : Level) (s : State) : (setIndicator l s).rcvstate = s.rcvstate := rfl
@[simp] theorem setIndicator_timer (l : Level) (s : State) : (setIndicator l s).timer = s.timer := rfl
@[simp] theorem setIndicator_rawbuf (l : Level) (s : State) : (setIndicator l s).rawbuf = s.rawbuf := rfl
@[simp] theorem setIndicator_rawlen (l : Level) (s : State) : (setIndicator l s).rawlen = s.rawlen := rfl
@[simp] theorem setIndicator_blinkEn (l : Level) (s : State) : (setIndicator l s).blinkEn = s.blinkEn := rfl
@[simp] theorem setIndicator_indOut (l : Level) (s : State) : (setIndicator l s).indOut = indicatorAfter s l := rfl
@[simp] theorem setIndicator_rxPin (l : Level) (s : State) : (setIndicator l s).rxPin = s.rxPin := rfl
@[simp] theorem setIndicator_rxTickEn (l : Level) (s : State) : (setIndicator l s).rxTickEn = s.rxTickEn := rfl
@[simp] theorem setIndicator_timerMode (l : Level) (s : State) : (setIndicator l s).timerMode = s.timerMode := rfl
@[simp] theorem setIndicator_txKhz (l : Level) (s : State) : (setIndicator l s).txKhz = s.txKhz := rfl
@[simp] theorem setIndicator_txPwmOn (l : Level) (s : State) : (setIndicator l s).txPwmOn = s.txPwmOn := rfl
@[simp] theorem setIndicator_txTrace (l : Level) (s : State) : (setIndicator l s).txTrace = s.txTrace := rfl
@[simp] theorem setIndicator_result (l : Level) (s : State) : (setIndicator l s).result = s.result := rfl
@[simp] theorem setIndicator_src (l : Level) (s : State) : (setIndicator l s).src = s.src := rfl
@[simp] theorem setIndicator_openSend (l : Level) (s : State) : (setIndicator l s).openSend = s.openSend := rfl
@[simp] theorem setIndicator_inputs (l : Level) (s : State) : (setIndicator l s).inputs = s.inputs := rfl

/-! ### `countTick` -/

@[simp] theorem countTick_cfg (s : State) : (countTick s).cfg = s.cfg := rfl
@[simp] theorem countTick_rcvstate (s : State) : (countTick s).rcvstate = s.rcvstate := rfl
@[simp] theorem countTick_timer (s : State) : (countTick s).timer = counted s := rfl
@[simp] theorem countTick_rawbuf (s : State) : (countTick s).rawbuf = s.rawbuf := rfl
@[simp] theorem countTick_rawlen (s : State) : (countTick s).rawlen = s.rawlen := rfl
@[simp] theorem countTick_blinkEn (s : State) : (countTick s).blinkEn = s.blinkEn := rfl
@[simp] theorem countTick_indOut (s : State) : (countTick s).indOut = s.indOut := rfl
@[simp] theorem countTick_rxPin (s : State) : (countTick s).rxPin = s.rxPin := rfl
@[simp] theorem countTick_rxTickEn (s : State) : (countTick s).rxTickEn = s.rxTickEn := rfl
@[simp] theorem countTick_timerMode (s : State) : (countTick s).timerMode = s.timerMode := rfl
@[simp] theorem countTick_txKhz (s : State) : (countTick s).txKhz = s.txKhz := rfl
@[simp] theorem countTick_txPwmOn (s : State) : (countTick s).txPwmOn = s.txPwmOn := rfl
@[simp] theorem countTick_txTrace (s : State) : (countTick s).txTrace = s.txTrace := rfl
@[simp] theorem countTick_result (s : State) : (countTick s).result = s.result := rfl
@[simp] theorem countTick_src (s : State) : (countTick s).src = s.src := rfl
@[simp] theorem countTick_openSend (s : State) : (countTick s).openSend = s.openSend := rfl
@[simp] theorem countTick_inputs (s : State) : (countTick s).inputs = s.inputs := rfl

/-! ### `clearTimer` -/

@[simp] theorem clearTimer_cfg (s : State) : (clearTimer s).cfg = s.cfg := rfl
@[simp] theorem clearTimer_rcvstate (s : State) : (clearTimer s).rcvstate = s.rcvstate := rfl
@[simp] theorem clearTimer_timer (s : State) : (clearTimer s).timer = 0 := rfl
@[simp] theorem clearTimer_rawbuf (s : State) : (clearTimer s).rawbuf = s.rawbuf := rfl
@[simp] theorem clearTimer_rawlen (s : State) : (clearTimer s).rawlen = s.rawlen := rfl
@[simp] theorem clearTimer_blinkEn (s : State) : (clearTimer s).blinkEn = s.blinkEn := rfl
@[simp] theorem clearTimer_indOut (s : State) : (clearTimer s).indOut = s.indOut := rfl
@[simp] theorem clearTimer_rxPin (s : State) : (clearTimer s).rxPin = s.rxPin := rfl
@[simp] theorem clearTimer_rxTickEn (s : State) : (clearTimer s).rxTickEn = s.rxTickEn := rfl
@[simp] theorem clearTimer_timerMode (s : State) : (clearTimer s).timerMode = s.timerMode := rfl
@[simp] theorem clearTimer_txKhz (s : State) : (clearTimer s).txKhz = s.txKhz := rfl
@[simp] theorem clearTimer_txPwmOn (s : State) : (clearTimer s).txPwmOn = s.txPwmOn := rfl
@[simp] theorem clearTimer_txTrace (s : State) : (clearTimer s).txTrace = s.txTrace := rfl
@[simp] theorem clearTimer_result (s : State) : (clearTimer s).result = s.result := rfl
@[simp] theorem clearTimer_src (s : State) : (clearTimer s).src = s.src := rfl
@[simp] theorem clearTimer_openSend (s : State) : (clearTimer s).openSend = s.openSend := rfl
@[simp] theorem clearTimer_inputs (s : State) : (clearTimer s).inputs = s.inputs := rfl

/-! ### `record` -/

@[simp] theorem record_cfg (i : Nat) (next : RcvState) (s : State) : (record i next s).cfg = s.cfg := rfl
@[simp] theorem record_rcvstate (i : Nat) (next : RcvState) (s : State) : (record i next s).rcvstate = next := rfl
@[simp] theorem record_timer (i : Nat) (next : RcvState) (s : State) : (record i next s).timer = 0 := rfl
@[simp] theorem record_rawbuf (i : Nat) (next : RcvState) (s : State) : (record i next s).rawbuf = s.rawbuf.write i s.timer := rfl
@[simp] theorem record_rawlen (i : Nat) (next : RcvState) (s : State) : (record i next s).rawlen = i + 1 := rfl
@[simp] theorem record_blinkEn (i : Nat) (next : RcvState) (s : State) : (record i next s).blinkEn = s.blinkEn := rfl
@[simp] theorem record_indOut (i : Nat) (next : RcvState) (s : State) : (record i next s).indOut = s.indOut := rfl
@[simp] theorem record_rxPin (i : Nat) (next : RcvState) (s : State) : (record i next s).rxPin = s.rxPin := rfl
@[simp] theorem record_rxTickEn (i : Nat) (next : RcvState) (s : State) : (record i next s).rxTickEn = s.rxTickEn := rfl
@[simp] theorem record_timerMode (i : Nat) (next : RcvState) (s : State) : (record i next s).timerMode = s.timerMode := rfl
@[simp] theorem record_txKhz (i : Nat) (next : RcvState) (s : State) : (record i next s).txKhz = s.txKhz := rfl
@[simp] theorem record_txPwmOn (i : Nat) (next : RcvState) (s : State) : (record i next s).txPwmOn = s.txPwmOn := rfl
@[simp] theorem record_txTrace (i : Nat) (next : RcvState) (s : State) : (record i next s).txTrace = s.txTrace := rfl
@[simp] theorem record_result (i : Nat) (next : RcvState) (s : State) : (record i next s).result = s.result := rfl
@[simp] theorem record_src (i : Nat) (next : RcvState) (s : State) : (record i next s).src = s.src := rfl
@[simp] theorem record_openSend (i : Nat) (next : RcvState) (s : State) : (record i next s).openSend = s.openSend := rfl
@[simp] theorem record_inputs (i : Nat) (next : RcvState) (s : State) : (record i next s).inputs = s.inputs := rfl

/-! ### `discard` -/

@[simp] theorem discard_cfg (s : State) : (discard s).cfg = s.cfg := rfl
@[simp] theorem discard_rcvstate (s : State) : (discard s).rcvstate = .idle := rfl
@[simp] theorem discard_timer (s : State) : (discard s).timer = s.timer := rfl
@[simp] theorem discard_rawbuf (s : State) : (discard s).rawbuf = s.rawbuf := rfl
@[simp] theorem discard_rawlen (s : State) : (discard s).rawlen = 0 := rfl
@[simp] theorem discard_blinkEn (s : State) : (discard s).blinkEn = s.blinkEn := rfl
@[simp] theorem discard_indOut (s : State) : (discard s).indOut = s.indOut := rfl
@[simp] theorem discard_rxPin (s : State) : (discard s).rxPin = s.rxPin := rfl
@[simp] theorem discard_rxTickEn (s : State) : (discard s).rxTickEn = s.rxTickEn := rfl
@[simp] theorem discard_timerMode (s : State) : (discard s).timerMode = s.timerMode := rfl
@[simp] theorem discard_txKhz (s : State) : (discard s).txKhz = s.txKhz := rfl
@[simp] theorem discard_txPwmOn (s : State) : (discard s).txPwmOn = s.txPwmOn := rfl
@[simp] theorem discard_txTrace (s : State) : (discard s).txTrace = s.txTrace := rfl
@[simp] theorem discard_result (s : State) : (discard s).result = s.result := rfl
@[simp] theorem discard_src (s : State) : (discard s).src = s.src := rfl
@[simp] theorem discard_openSend (s : State) : (discard s).openSend = s.openSend := rfl
@[simp] theorem discard_inputs (s : State) : (discard s).inputs = s.inputs := rfl

/-! ### `returnResult` -/

@[simp] theorem returnResult_cfg (r : DecodeResult) (s : State) : (returnResult r s).cfg = s.cfg := rfl
@[simp] theorem returnResult_rcvstate (r : DecodeResult) (s : State) : (returnResult r s).rcvstate = s.rcvstate := rfl
@[simp] theorem returnResult_timer (r : DecodeResult) (s : State) : (returnResult r s).timer = s.timer := rfl
@[simp] theorem returnResult_rawbuf (r : DecodeResult) (s : State) : (returnResult r s).rawbuf = s.rawbuf := rfl
@[simp] theorem returnResult_rawlen (r : DecodeResult) (s : State) : (returnResult r s).rawlen = s.rawlen := rfl
@[simp] theorem returnResult_blinkEn (r : DecodeResult) (s : State) : (returnResult r s).blinkEn = s.blinkEn := rfl
@[simp] theorem returnResult_indOut (r : DecodeResult) (s : State) : (returnResult r s).indOut = s.indOut := rfl
@[simp] theorem returnResult_rxPin (r : DecodeResult) (s : State) : (returnResult r s).rxPin = s.rxPin := rfl
@[simp] theorem returnResult_rxTickEn (r : DecodeResult) (s : State) : (returnResult r s).rxTickEn = s.rxTickEn := rfl
@[simp] theorem returnResult_timerMode (r : DecodeResult) (s : State) : (returnResult r s).timerMode = s.timerMode := rfl
@[simp] theorem returnResult_txKhz (r : DecodeResult) (s : State) : (returnResult r s).txKhz = s.txKhz := rfl
@[simp] theorem returnResult_txPwmOn (r : DecodeResult) (s : State) : (returnResult r s).txPwmOn = s.txPwmOn := rfl
@[simp] theorem returnResult_txTrace (r : DecodeResult) (s : State) : (returnResult r s).txTrace = s.txTrace := rfl
@[simp] theorem returnResult_result (r : DecodeResult) (s : State) : (returnResult r s).result = some r := rfl
@[simp] theorem returnResult_src (r : DecodeResult) (s : State) : (returnResult r s).src = s.src := rfl
@[simp] theorem returnResult_openSend (r : DecodeResult) (s : State) : (returnResult r s).openSend = s.openSend := rfl
@[simp] theorem returnResult_inputs (r : DecodeResult) (s : State) : (returnResult r s).inputs = s.inputs := rfl

/-! ### `startCarrier` -/

@[simp] theorem startCarrier_cfg (khz : Khz) (s : State) : (startCarrier khz s).cfg = s.cfg := rfl
@[simp] theorem startCarrier_rcvstate (khz : Khz) (s : State) : (startCarrier khz s).rcvstate = s.rcvstate := rfl
@[simp] theorem startCarrier_timer (khz : Khz) (s : State) : (startCarrier khz s).timer = s.timer := rfl
@[simp] theorem startCarrier_rawbuf (khz : Khz) (s : State) : (startCarrier khz s).rawbuf = s.rawbuf := rfl
@[simp] theorem startCarrier_rawlen (khz : Khz) (s : State) : (startCarrier khz s).rawlen = s.rawlen := rfl
@[simp] theorem startCarrier_blinkEn (khz : Khz) (s : State) : (startCarrier khz s).blinkEn = s.blinkEn := rfl
@[simp] theorem startCarrier_indOut (khz : Khz) (s : State) : (startCarrier khz s).indOut = s.indOut := rfl
@[simp] theorem startCarrier_rxPin (khz : Khz) (s : State) : (startCarrier khz s).rxPin = s.rxPin := rfl
@[simp] theorem startCarrier_rxTickEn (khz : Khz) (s : State) : (startCarrier khz s).rxTickEn = false := rfl
@[simp] theorem startCarrier_timerMode (khz : Khz) (s : State) : (startCarrier khz s).timerMode = .txPwm := rfl
@[simp] theorem startCarrier_txKhz (khz : Khz) (s : State) : (startCarrier khz s).txKhz = khz := rfl
@[simp] theorem startCarrier_txPwmOn (khz : Khz) (s : State) : (startCarrier khz s).txPwmOn = false := rfl
@[simp] theorem startCarrier_txTrace (khz : Khz) (s : State) : (startCarrier khz s).txTrace = s.txTrace := rfl
@[simp] theorem startCarrier_result (khz : Khz) (s : State) : (startCarrier khz s).result = s.result := rfl
@[simp] theorem startCarrier_src (khz : Khz) (s : State) : (startCarrier khz s).src = s.src := rfl
@[simp] theorem startCarrier_openSend (khz : Khz) (s : State) : (startCarrier khz s).openSend = s.openSend := rfl
@[simp] theorem startCarrier_inputs (khz : Khz) (s : State) : (startCarrier khz s).inputs = s.inputs := rfl

/-! ### `sendMark` -/

@[simp] theorem sendMark_cfg (d : Dur) (s : State) : (sendMark d s).cfg = s.cfg := rfl
@[simp] theorem sendMark_rcvstate (d : Dur) (s : State) : (sendMark d s).rcvstate = s.rcvstate := rfl
@[simp] theorem sendMark_timer (d : Dur) (s : State) : (sendMark d s).timer = s.timer := rfl
@[simp] theorem sendMark_rawbuf (d : Dur) (s : State) : (sendMark d s).rawbuf = s.rawbuf := rfl
@[simp] theorem sendMark_rawlen (d : Dur) (s : State) : (sendMark d s).rawlen = s.rawlen := rfl
@[simp] theorem sendMark_blinkEn (d : Dur) (s : State) : (sendMark d s).blinkEn = s.blinkEn := rfl
@[simp] theorem sendMark_indOut (d : Dur) (s : State) : (sendMark d s).indOut = s.indOut := rfl
@[simp] theorem sendMark_rxPin (d : Dur) (s : State) : (sendMark d s).rxPin = s.rxPin := rfl
@[simp] theorem sendMark_rxTickEn (d : Dur) (s : State) : (sendMark d s).rxTickEn = s.rxTickEn := rfl
@[simp] theorem sendMark_timerMode (d : Dur) (s : State) : (sendMark d s).timerMode = s.timerMode := rfl
@[simp] theorem sendMark_txKhz (d : Dur) (s : State) : (sendMark d s).txKhz = s.txKhz := rfl
@[simp] theorem sendMark_txPwmOn (d : Dur) (s : State) : (sendMark d s).txPwmOn = true := rfl
@[simp] theorem sendMark_txTrace (d : Dur) (s : State) : (sendMark d s).txTrace = s.txTrace ++ [⟨true, d, s.txKhz⟩] := rfl
@[simp] theorem sendMark_result (d : Dur) (s : State) : (sendMark d s).result = s.result := rfl
@[simp] theorem sendMark_src (d : Dur) (s : State) : (sendMark d s).src = s.src := rfl
@[simp] theorem sendMark_openSend (d : Dur) (s : State) : (sendMark d s).openSend = s.openSend := rfl
@[simp] theorem sendMark_inputs (d : Dur) (s : State) : (sendMark d s).inputs = s.inputs := rfl

/-! ### `sendSpace` -/

@[simp] theorem sendSpace_cfg (d : Dur) (s : State) : (sendSpace d s).cfg = s.cfg := rfl
@[simp] theorem sendSpace_rcvstate (d : Dur) (s : State) : (sendSpace d s).rcvstate = s.rcvstate := rfl
@[simp] theorem sendSpace_timer (d : Dur) (s : State) : (sendSpace d s).timer = s.timer := rfl
@[simp] theorem sendSpace_rawbuf (d : Dur) (s : State) : (sendSpace d s).rawbuf = s.rawbuf := rfl
@[simp] theorem sendSpace_rawlen (d : Dur) (s : State) : (sendSpace d s).rawlen = s.rawlen := rfl
@[simp] theorem sendSpace_blinkEn (d : Dur) (s : State) : (sendSpace d s).blinkEn = s.blinkEn := rfl
@[simp] theorem sendSpace_indOut (d : Dur) (s : State) : (sendSpace d s).indOut = s.indOut := rfl
@[simp] theorem sendSpace_rxPin (d : Dur) (s : State) : (sendSpace d s).rxPin = s.rxPin := rfl
@[simp] theorem sendSpace_rxTickEn (d : Dur) (s : State) : (sendSpace d s).rxTickEn = s.rxTickEn := rfl
@[simp] theorem sendSpace_timerMode (d : Dur) (s : State) : (sendSpace d s).timerMode = s.timerMode := rfl
@[simp] theorem sendSpace_txKhz (d : Dur) (s : State) : (sendSpace d s).txKhz = s.txKhz := rfl
@[simp] theorem sendSpace_txPwmOn (d : Dur) (s : State) : (sendSpace d s).txPwmOn = false := rfl
@[simp] theorem sendSpace_txTrace (d : Dur) (s : State) : (sendSpace d s).txTrace = s.txTrace ++ [⟨false, d, s.txKhz⟩] := rfl
@[simp] theorem sendSpace_result (d : Dur) (s : State) : (sendSpace d s).result = s.result := rfl
@[simp] theorem sendSpace_src (d : Dur) (s : State) : (sendSpace d s).src = s.src := rfl
@[simp] theorem sendSpace_openSend (d : Dur) (s : State) : (sendSpace d s).openSend = s.openSend := rfl
@[simp] theorem sendSpace_inputs (d : Dur) (s : State) : (sendSpace d s).inputs = s.inputs := rfl

/-! ### `testCapacity` -/

@[simp] theorem testCapacity_cfg (s : State) : (testCapacity s).cfg = s.cfg := by unfold testCapacity; split <;> rfl
@[simp] theorem testCapacity_rcvstate (s : State) : (testCapacity s).rcvstate = if s.full then .stopped else s.rcvstate := by
  unfold testCapacity; split <;> rfl
@[simp] theorem testCapacity_timer (s : State) : (testCapacity s).timer = s.timer := by unfold testCapacity; split <;> rfl
@[simp] theorem testCapacity_rawbuf (s : State) : (testCapacity s).rawbuf = s.rawbuf := by unfold testCapacity; split <;> rfl
@[simp] theorem testCapacity_rawlen (s : State) : (testCapacity s).rawlen = s.rawlen := by unfold testCapacity; split <;> rfl
@[simp] theorem testCapacity_blinkEn (s : State) : (testCapacity s).blinkEn = s.blinkEn := by unfold testCapacity; split <;> rfl
@[simp] theorem testCapacity_indOut (s : State) : (testCapacity s).indOut = s.indOut := by unfold testCapacity; split <;> rfl
@[simp] theorem testCapacity_rxPin (s : State) : (testCapacity s).rxPin = s.rxPin := by unfold testCapacity; split <;> rfl
@[simp] theorem testCapacity_rxTickEn (s : State) : (testCapacity s).rxTickEn = s.rxTickEn := by
  unfold testCapacity; split <;> rfl
@[simp] theorem testCapacity_timerMode (s : State) : (testCapacity s).timerMode = s.timerMode := by
  unfold testCapacity; split <;> rfl
@[simp] theorem testCapacity_txKhz (s : State) : (testCapacity s).txKhz = s.txKhz := by unfold testCapacity; split <;> rfl
@[simp] theorem testCapacity_txPwmOn (s : State) : (testCapacity s).txPwmOn = s.txPwmOn := by unfold testCapacity; split <;> rfl
@[simp] theorem testCapacity_txTrace (s : State) : (testCapacity s).txTrace = s.txTrace := by unfold testCapacity; split <;> rfl
@[simp] theorem testCapacity_result (s : State) : (testCapacity s).result = s.result := by unfold testCapacity; split <;> rfl
@[simp] theorem testCapacity_src (s : State) : (testCapacity s).src = s.src := by unfold testCapacity; split <;> rfl
@[simp] theorem testCapacity_openSend (s : State) : (testCapacity s).openSend = s.openSend := by unfold testCapacity; split <;> rfl
@[simp] theorem testCapacity_inputs (s : State) : (testCapacity s).inputs = s.inputs := by unfold testCapacity; split <;> rfl

/-! ### `endOfSend` -/

@[simp] theorem endOfSend_cfg (prev : Bool) (s : State) : (endOfSend prev s).cfg = s.cfg := by unfold endOfSend; split <;> rfl
@[simp] theorem endOfSend_rcvstate (prev : Bool) (s : State) : (endOfSend prev s).rcvstate = s.rcvstate := by
  unfold endOfSend; split <;> rfl
@[simp] theorem endOfSend_timer (prev : Bool) (s : State) : (endOfSend prev s).timer = s.timer := by
  unfold endOfSend; split <;> rfl
@[simp] theorem endOfSend_rawbuf (prev : Bool) (s : State) : (endOfSend prev s).rawbuf = s.rawbuf := by
  unfold endOfSend; split <;> rfl
@[simp] theorem endOfSend_rawlen (prev : Bool) (s : State) : (endOfSend prev s).rawlen = s.rawlen := by
  unfold endOfSend; split <;> rfl
@[simp] theorem endOfSend_blinkEn (prev : Bool) (s : State) : (endOfSend prev s).blinkEn = s.blinkEn := by
  unfold endOfSend; split <;> rfl
@[simp] theorem endOfSend_indOut (prev : Bool) (s : State) : (endOfSend prev s).indOut = s.indOut := by
  unfold endOfSend; split <;> rfl
@[simp] theorem endOfSend_rxPin (prev : Bool) (s : State) : (endOfSend prev s).rxPin = s.rxPin := by
  unfold endOfSend; split <;> rfl
@[simp] theorem endOfSend_rxTickEn (prev : Bool) (s : State) :
    (endOfSend prev s).rxTickEn = if s.cfg.txEndRxEn = .restore ∧ prev = true then true else s.rxTickEn := by
  unfold endOfSend; split <;> rfl
@[simp] theorem endOfSend_timerMode (prev : Bool) (s : State) :
    (endOfSend prev s).timerMode = if s.cfg.txEndRxEn = .restore ∧ prev = true then .rxTick else s.timerMode := by
  unfold endOfSend; split <;> rfl
@[simp] theorem endOfSend_txKhz (prev : Bool) (s : State) : (endOfSend prev s).txKhz = s.txKhz := by
  unfold endOfSend; split <;> rfl
@[simp] theorem endOfSend_txPwmOn (prev : Bool) (s : State) : (endOfSend prev s).txPwmOn = s.txPwmOn := by
  unfold endOfSend; split <;> rfl
@[simp] theorem endOfSend_txTrace (prev : Bool) (s : State) : (endOfSend prev s).txTrace = s.txTrace := by
  unfold endOfSend; split <;> rfl
@[simp] theorem endOfSend_result (prev : Bool) (s : State) : (endOfSend prev s).result = s.result := by
  unfold endOfSend; split <;> rfl
@[simp] theorem endOfSend_src (prev : Bool) (s : State) : (endOfSend prev s).src = s.src := by unfold endOfSend; split <;> rfl
@[simp] theorem endOfSend_openSend (prev : Bool) (s : State) : (endOfSend prev s).openSend = s.openSend := by
  unfold endOfSend; split <;> rfl
@[simp] theorem endOfSend_inputs (prev : Bool) (s : State) : (endOfSend prev s).inputs = s.inputs := by
  unfold endOfSend; split <;> rfl

/-! ### `storeSource` -/

@[simp] theorem storeSource_cfg (i : Nat) (d : Dur) (s : State) : (storeSource i d s).cfg = s.cfg := rfl
@[simp] theorem storeSource_rcvstate (i : Nat) (d : Dur) (s : State) : (storeSource i d s).rcvstate = s.rcvstate := rfl
@[simp] theorem storeSource_timer (i : Nat) (d : Dur) (s : State) : (storeSource i d s).timer = s.timer := rfl
@[simp] theorem storeSource_rawbuf (i : Nat) (d : Dur) (s : State) : (storeSource i d s).rawbuf = s.rawbuf := rfl
@[simp] theorem storeSource_rawlen (i : Nat) (d : Dur) (s : State) : (storeSource i d s).rawlen = s.rawlen := rfl
@[simp] theorem storeSource_blinkEn (i : Nat) (d : Dur) (s : State) : (storeSource i d s).blinkEn = s.blinkEn := rfl
@[simp] theorem storeSource_indOut (i : Nat) (d : Dur) (s : State) : (storeSource i d s).indOut = s.indOut := rfl
@[simp] theorem storeSource_rxPin (i : Nat) (d : Dur) (s : State) : (storeSource i d s).rxPin = s.rxPin := rfl
@[simp] theorem storeSource_rxTickEn (i : Nat) (d : Dur) (s : State) : (storeSource i d s).rxTickEn = s.rxTickEn := rfl
@[simp] theorem storeSource_timerMode (i : Nat) (d : Dur) (s : State) : (storeSource i d s).timerMode = s.timerMode := rfl
@[simp] theorem storeSource_txKhz (i : Nat) (d : Dur) (s : State) : (storeSource i d s).txKhz = s.txKhz := rfl
@[simp] theorem storeSource_txPwmOn (i : Nat) (d : Dur) (s : State) : (storeSource i d s).txPwmOn = s.txPwmOn := rfl
@[simp] theorem storeSource_txTrace (i : Nat) (d : Dur) (s : State) : (storeSource i d s).txTrace = s.txTrace := rfl
@[simp] theorem storeSource_result (i : Nat) (d : Dur) (s : State) : (storeSource i d s).result = s.result := rfl
@[simp] theorem storeSource_src (i : Nat) (d : Dur) (s : State) : (storeSource i d s).src = s.src.write i d := rfl
@[simp] theorem storeSource_openSend (i : Nat) (d : Dur) (s : State) : (storeSource i d s).openSend = s.openSend := rfl
@[simp] theorem storeSource_inputs (i : Nat) (d : Dur) (s : State) : (storeSource i d s).inputs = s.inputs := rfl

/-! ### `beginSend` -/

@[simp] theorem beginSend_cfg (s : State) : (beginSend s).cfg = s.cfg := rfl
@[simp] theorem beginSend_rcvstate (s : State) : (beginSend s).rcvstate = s.rcvstate := rfl
@[simp] theorem beginSend_timer (s : State) : (beginSend s).timer = s.timer := rfl
@[simp] theorem beginSend_rawbuf (s : State) : (beginSend s).rawbuf = s.rawbuf := rfl
@[simp] theorem beginSend_rawlen (s : State) : (beginSend s).rawlen = s.rawlen := rfl
@[simp] theorem beginSend_blinkEn (s : State) : (beginSend s).blinkEn = s.blinkEn := rfl
@[simp] theorem beginSend_indOut (s : State) : (beginSend s).indOut = s.indOut := rfl
@[simp] theorem beginSend_rxPin (s : State) : (beginSend s).rxPin = s.rxPin := rfl
@[simp] theorem beginSend_rxTickEn (s : State) : (beginSend s).rxTickEn = s.rxTickEn := rfl
@[simp] theorem beginSend_timerMode (s : State) : (beginSend s).timerMode = s.timerMode := rfl
@[simp] theorem beginSend_txKhz (s : State) : (beginSend s).txKhz = s.txKhz := rfl
@[simp] theorem beginSend_txPwmOn (s : State) : (beginSend s).txPwmOn = s.txPwmOn := rfl
@[simp] theorem beginSend_txTrace (s : State) : (beginSend s).txTrace = s.txTrace := rfl
@[simp] theorem beginSend_result (s : State) : (beginSend s).result = s.result := rfl
@[simp] theorem beginSend_src (s : State) : (beginSend s).src = s.src := rfl
@[simp] theorem beginSend_openSend (s : State) : (beginSend s).openSend = some s.rxTickEn := rfl
@[simp] theorem beginSend_inputs (s : State) : (beginSend s).inputs = s.inputs := rfl

/-! ### `leaveSend` -/

@[simp] theorem leaveSend_cfg (s : State) : (leaveSend s).cfg = s.cfg := rfl
@[simp] theorem leaveSend_rcvstate (s : State) : (leaveSend s).rcvstate = s.rcvstate := rfl
@[simp] theorem leaveSend_timer (s : State) : (leaveSend s).timer = s.timer := rfl
@[simp] theorem leaveSend_rawbuf (s : State) : (leaveSend s).rawbuf = s.rawbuf := rfl
@[simp] theorem leaveSend_rawlen (s : State) : (leaveSend s).rawlen = s.rawlen := rfl
@[simp] theorem leaveSend_blinkEn (s : State) : (leaveSend s).blinkEn = s.blinkEn := rfl
@[simp] theorem leaveSend_indOut (s : State) : (leaveSend s).indOut = s.indOut := rfl
@[simp] theorem leaveSend_rxPin (s : State) : (leaveSend s).rxPin = s.rxPin := rfl
@[simp] theorem leaveSend_rxTickEn (s : State) : (leaveSend s).rxTickEn = s.rxTickEn := rfl
@[simp] theorem leaveSend_timerMode (s : State) : (leaveSend s).timerMode = s.timerMode := rfl
@[simp] theorem leaveSend_txKhz (s : State) : (leaveSend s).txKhz = s.txKhz := rfl
@[simp] theorem leaveSend_txPwmOn (s : State) : (leaveSend s).txPwmOn = s.txPwmOn := rfl
@[simp] theorem leaveSend_txTrace (s : State) : (leaveSend s).txTrace = s.txTrace := rfl
@[simp] theorem leaveSend_result (s : State) : (leaveSend s).result = s.result := rfl
@[simp] theorem leaveSend_src (s : State) : (leaveSend s).src = s.src := rfl
@[simp] theorem leaveSend_openSend (s : State) : (leaveSend s).openSend = none := rfl
@[simp] theorem leaveSend_inputs (s : State) : (leaveSend s).inputs = s.inputs := rfl

end Sys2Proof.Machine
end

