-- ==== Sys2Proof/Laws/Capture.lean ====
section
/-! SUPPORT. Reading the capture space: one entry, the whole captured message, and through a reference that the host holds. -/

namespace Sys2Proof.Machine

theorem memRead_eq_ok {s : State} {i v : Nat} :
    memRead s i = .ok v ↔ i < s.rawlen ∧ s.rawbuf.read i = some v := by
  unfold memRead
  split_ifs with h
  · split <;> simp_all
  · simp [h]

theorem memRead_past {s : State} {i : Nat} (h : s.rawlen ≤ i) : memRead s i = .error (.entryWithoutValue i) := by
  simp [memRead, Nat.not_lt.2 h]

/-- A read depends on the length and on the entry, on nothing else. -/
theorem memRead_congr {s t : State} (hlen : t.rawlen = s.rawlen)
    (hbuf : ∀ i < s.rawlen, t.rawbuf.read i = s.rawbuf.read i) (i : Nat) : memRead t i = memRead s i := by
  unfold memRead
  rw [hlen]
  split_ifs with h
  · rw [hbuf i h]
  · rfl

theorem readEntries_congr {s t : State} (hlen : t.rawlen = s.rawlen)
    (hbuf : ∀ i < s.rawlen, t.rawbuf.read i = s.rawbuf.read i) (i n : Nat) :
    readEntries t i n = readEntries s i n := by
  induction n generalizing i with
  | zero => rfl
  | succ n ih => simp only [readEntries, memRead_congr hlen hbuf, ih]

/-- The captured message depends on the length and on the entries below it. -/
theorem capturedEntries_congr {s t : State} (hlen : t.rawlen = s.rawlen)
    (hbuf : ∀ i < s.rawlen, t.rawbuf.read i = s.rawbuf.read i) : capturedEntries t = capturedEntries s := by
  unfold capturedEntries
  rw [hlen, readEntries_congr hlen hbuf]

theorem readEntries_eq_ok {s : State} {i n : Nat} {es : List Nat} :
    readEntries s i n = .ok es ↔ es.length = n ∧ ∀ k, k < n → ∃ v, memRead s (i + k) = .ok v ∧ es[k]? = some v := by
  induction n generalizing i es with
  | zero =>
    simp only [readEntries]
    constructor
    · intro h
      obtain rfl : [] = es := by simpa using h
      simp
    · rintro ⟨h, -⟩
      obtain rfl := List.eq_nil_of_length_eq_zero h
      rfl
  | succ n ih =>
    constructor
    · intro h
      unfold readEntries at h
      split at h
      · cases h
      · rename_i v hv
        split at h
        · cases h
        · rename_i vs hvs
          obtain rfl : v :: vs = es := by simpa using h
          obtain ⟨hl, hk⟩ := ih.1 hvs
          refine ⟨by simp [hl], fun k hk' => ?_⟩
          cases k with
          | zero => exact ⟨v, hv, rfl⟩
          | succ k =>
            obtain ⟨w, h1, h2⟩ := hk k (by omega)
            exact ⟨w, by rwa [show i + (k + 1) = i + 1 + k by omega], by simpa using h2⟩
    · rintro ⟨hl, hk⟩
      cases es with
      | nil => simp at hl
      | cons v vs =>
        obtain ⟨w, h1, h2⟩ := hk 0 (by omega)
        obtain rfl : v = w := by simpa using h2
        have hvs : readEntries s (i + 1) n = .ok vs := ih.2 ⟨by simpa using hl, fun k hk' => by
          obtain ⟨w, h1, h2⟩ := hk (k + 1) (by omega)
          exact ⟨w, by rwa [show i + 1 + k = i + (k + 1) by omega], by simpa using h2⟩⟩
        simp only [Nat.add_zero] at h1
        simp [readEntries, h1, hvs]

/-- The captured message is the list of the valid entries, in order. -/
theorem capturedEntries_eq_ok {s : State} {es : List Nat} :
    capturedEntries s = .ok es ↔ es.length = s.rawlen ∧ ∀ k, k < s.rawlen → s.rawbuf.read k = es[k]? := by
  unfold capturedEntries
  rw [readEntries_eq_ok]
  refine and_congr_right fun hl => ⟨fun h k hk => ?_, fun h k hk => ?_⟩
  · obtain ⟨v, h1, h2⟩ := h k hk
    rw [Nat.zero_add] at h1
    rw [(memRead_eq_ok.1 h1).2, h2]
  · refine ⟨es[k]'(by omega), ?_, by simp [hl, hk]⟩
    rw [Nat.zero_add, memRead_eq_ok]
    exact ⟨hk, by rw [h k hk]; simp [hl, hk]⟩

theorem capturedEntries_length {s : State} {es : List Nat} (h : capturedEntries s = .ok es) :
    es.length = s.rawlen := (capturedEntries_eq_ok.1 h).1

/-- Where every entry below `rawlen` holds a value, the message can be read. -/
theorem capturedEntries_of_valid {s : State} (h : ∀ i < s.rawlen, ∃ v, s.rawbuf.read i = some v) :
    ∃ es, capturedEntries s = .ok es := by
  refine ⟨(List.range s.rawlen).map fun i => (s.rawbuf.read i).getD 0, capturedEntries_eq_ok.2 ⟨by simp, fun k hk => ?_⟩⟩
  obtain ⟨v, hv⟩ := h k hk
  simp [hk, hv]

/-- An entry put after the valid ones is the last of the message. -/
theorem capturedEntries_record {s : State} {es : List Nat} (h : capturedEntries s = .ok es) (next : RcvState) :
    capturedEntries (record s.rawlen next s) = .ok (es ++ [s.timer]) := by
  obtain ⟨hl, hk⟩ := capturedEntries_eq_ok.1 h
  refine capturedEntries_eq_ok.2 ⟨by simp [hl], fun k hk' => ?_⟩
  simp only [record_rawbuf, record_rawlen, Memory.read_write] at hk' ⊢
  split_ifs with hkl
  · subst hkl
    simp [← hl]
  · have : k < s.rawlen := by omega
    rw [hk k this, List.getElem?_append_left (by omega)]

/-! ### Reading through a held reference -/

/-- Below both lengths a held reference reads the live entry (R38, R292). -/
theorem hostReadRef_live {d : Decoded} {s : State} {i v : Nat} (hd : i < d.rawlen) (h : memRead s i = .ok v) :
    hostReadRef (.ready d) s i = .next v := by
  simp [hostReadRef, hd, h]

/-- At or past the live length it faults (R62). -/
theorem hostReadRef_stale {d : Decoded} {s : State} {i : Nat} (hd : i < d.rawlen) (h : s.rawlen ≤ i) :
    hostReadRef (.ready d) s i = .fault (.entryWithoutValue i) := by
  simp [hostReadRef, hd, memRead_past h]

/-- At or past its own length it faults (R77). -/
theorem hostReadRef_past {d : Decoded} {s : State} {i : Nat} (h : d.rawlen ≤ i) :
    hostReadRef (.ready d) s i = .fault (.pastReference i) := by
  simp [hostReadRef, Nat.not_lt.2 h]

/-- A held reference reads the capture only (R77). -/
theorem hostReadRef_congr {s t : State} (held : DecodeResult) (i : Nat) (hlen : t.rawlen = s.rawlen)
    (hbuf : t.rawbuf = s.rawbuf) : hostReadRef held t i = hostReadRef held s i := by
  cases held <;> simp [hostReadRef, memRead, hlen, hbuf]

end Sys2Proof.Machine
end

