-- ==== Sys2Proof/Laws/Coding.lean ====
section
/-! SUPPORT. What reading an operand and each operand format can answer (R95). -/

namespace Sys2Proof

/-- An operand that fits is read as it stands (R95). -/
theorem operand_toNat {port width : Nat} (b : BitVec width) : operand port width b.toNat = .ok b := by
  simp [operand, b.isLt]

/-- What reading an operand can answer. -/
theorem operand_ok {port width v : Nat} {b : BitVec width} (h : operand port width v = .ok b) : b.toNat = v ∧ v < 2 ^ width := by
  unfold operand at h
  split_ifs at h with hv
  cases h
  exact ⟨by simp [Nat.mod_eq_of_lt hv], hv⟩

/-- What format U can answer. -/
theorem formatU_ok {width : Nat} {p : PortWord} {mk : BitVec width → Instr} {i} (h : formatU width p mk = .ok i) :
   ∃ b : BitVec width, i = mk b ∧ b.toNat = p.arg0 ∧ p.arg0 < 2 ^ width := by
  unfold formatU at h
  split at h
  · rename_i a ha; cases h; exact ⟨a, rfl, operand_ok ha⟩
  · cases h

/-- What format V can answer. -/
theorem formatV_ok {cfg} {p : PortWord} {mk : Nat → NBits → Instr} {i} (h : formatV cfg p mk = .ok i) :
   ∃ b : NBits, i = mk p.arg0 b ∧ b.toNat = p.arg1 ∧ p.arg0 < 2 ^ cfg.valueW := by
  unfold formatV at h
  split_ifs at h with hv
  split at h
  · rename_i a ha; cases h; exact ⟨a, rfl, (operand_ok ha).1, hv⟩
  · cases h

/-- What format R can answer. -/
theorem formatR_ok {p : PortWord} {mk : Nat → Count → Khz → Instr} {i} (h : formatR p mk = .ok i) :
   ∃ c k, i = mk p.arg0 c k ∧ c.toNat = p.arg1 ∧ k.toNat = p.arg2 := by
  unfold formatR at h
  split at h
  · rename_i a b ha hb; cases h; exact ⟨a, b, rfl, (operand_ok ha).1, (operand_ok hb).1⟩
  · cases h
  · cases h

end Sys2Proof
end

