-- ==== Sys2Proof/Laws/Engine.lean ====
section
/-! SUPPORT. What DECODE does, said once (R161). -/

namespace Sys2Proof.Machine

/-- DECODE of a captured message is a case analysis on what its entries give. -/
theorem execDecode_stopped {s : State} {es : List Nat} (h : s.rcvstate = .stopped) (he : capturedEntries s = .ok es) :
    execDecode s =
      match decodeEntries s.cfg es with
      | some r => .next (returnResult r s)
      | none => .next (returnResult .notReady (discard s)) := by
  have hs : s.stopped = true := decide_eq_true h
  cases hd : decodeEntries s.cfg es <;> simp [execDecode, hs, he, hd]

/-- Everything a DECODE that goes on can do. -/
theorem execDecode_cases {s t : State} (h : execDecode s = .next t) :
    (s.rcvstate ≠ .stopped ∧ t = returnResult .notReady s) ∨
    (s.rcvstate = .stopped ∧ ∃ es r, capturedEntries s = .ok es ∧ decodeEntries s.cfg es = some r ∧ t = returnResult r s) ∨
    (s.rcvstate = .stopped ∧ ∃ es, capturedEntries s = .ok es ∧ decodeEntries s.cfg es = none ∧
      t = returnResult .notReady (discard s)) := by
  by_cases hs : s.rcvstate = .stopped
  · simp only [execDecode, State.stopped, hs, decide_true, if_true] at h
    split at h
    · cases h
    · rename_i es he
      split at h
      · rename_i r hr
        cases h
        exact .inr (.inl ⟨hs, es, r, he, hr, rfl⟩)
      · rename_i hr
        cases h
        exact .inr (.inr ⟨hs, es, he, hr, rfl⟩)
  · simp only [execDecode, State.stopped, hs, decide_false, Bool.false_eq_true, if_false] at h
    cases h
    exact .inl ⟨hs, rfl⟩

/-- What the engine answers on entries, profile by profile. -/
theorem decodeEntries_cases (cfg : Cfg) (es : List Nat) :
    (∃ r, matchProfile cfg cfg.profileA es = some r ∧ decodeEntries cfg es = some (acceptedBy cfg cfg.profileA es r)) ∨
    (∃ r, matchProfile cfg cfg.profileA es = none ∧ matchProfile cfg cfg.profileB es = some r ∧
      decodeEntries cfg es = some (acceptedBy cfg cfg.profileB es r)) ∨
    (matchProfile cfg cfg.profileA es = none ∧ matchProfile cfg cfg.profileB es = none ∧ 6 ≤ es.length ∧
      decodeEntries cfg es = some (unrecognized es)) ∨
    (matchProfile cfg cfg.profileA es = none ∧ matchProfile cfg cfg.profileB es = none ∧ es.length < 6 ∧
      decodeEntries cfg es = none) := by
  unfold decodeEntries
  cases ha : matchProfile cfg cfg.profileA es with
  | some r => exact .inl ⟨r, rfl, rfl⟩
  | none =>
    cases hb : matchProfile cfg cfg.profileB es with
    | some r => exact .inr (.inl ⟨r, rfl, rfl, rfl⟩)
    | none =>
      rcases Nat.lt_or_ge es.length 6 with hl | hl
      · exact .inr (.inr (.inr ⟨rfl, rfl, hl, if_neg (Nat.not_le.2 hl)⟩))
      · exact .inr (.inr (.inl ⟨rfl, rfl, hl, if_pos hl⟩))

end Sys2Proof.Machine
end

