-- ==== Sys2Proof/Laws/Receive.lean ====
section
/-! SUPPORT. What one tick does, case by case (R121, R137), and what a run of ticks does. -/

namespace Sys2Proof.Machine

/-- The state of a tick before its level is looked at: indicator, count, capacity test. -/
def beforeLevel (l : Level) (s : State) : State := testCapacity (countTick (setIndicator l s))

theorem execTick_eq (l : Level) (s : State) : execTick l s = .next (actOnLevel l (beforeLevel l s)) := rfl

theorem exec_tick (l : Level) (s : State) : exec (.tick l) s = .next (actOnLevel l (beforeLevel l s)) := rfl

@[simp] theorem beforeLevel_cfg (l : Level) (s : State) : (beforeLevel l s).cfg = s.cfg := by simp [beforeLevel]
@[simp] theorem beforeLevel_timer (l : Level) (s : State) : (beforeLevel l s).timer = counted s := by
  simp [beforeLevel]; rfl
@[simp] theorem beforeLevel_rawbuf (l : Level) (s : State) : (beforeLevel l s).rawbuf = s.rawbuf := by simp [beforeLevel]
@[simp] theorem beforeLevel_rawlen (l : Level) (s : State) : (beforeLevel l s).rawlen = s.rawlen := by simp [beforeLevel]
@[simp] theorem beforeLevel_blinkEn (l : Level) (s : State) : (beforeLevel l s).blinkEn = s.blinkEn := by simp [beforeLevel]
@[simp] theorem beforeLevel_indOut (l : Level) (s : State) : (beforeLevel l s).indOut = indicatorAfter s l := by
  simp [beforeLevel]
@[simp] theorem beforeLevel_rxPin (l : Level) (s : State) : (beforeLevel l s).rxPin = s.rxPin := by simp [beforeLevel]
@[simp] theorem beforeLevel_rxTickEn (l : Level) (s : State) : (beforeLevel l s).rxTickEn = s.rxTickEn := by
  simp [beforeLevel]
@[simp] theorem beforeLevel_timerMode (l : Level) (s : State) : (beforeLevel l s).timerMode = s.timerMode := by
  simp [beforeLevel]
@[simp] theorem beforeLevel_txKhz (l : Level) (s : State) : (beforeLevel l s).txKhz = s.txKhz := by simp [beforeLevel]
@[simp] theorem beforeLevel_txPwmOn (l : Level) (s : State) : (beforeLevel l s).txPwmOn = s.txPwmOn := by
  simp [beforeLevel]
@[simp] theorem beforeLevel_txTrace (l : Level) (s : State) : (beforeLevel l s).txTrace = s.txTrace := by
  simp [beforeLevel]
@[simp] theorem beforeLevel_result (l : Level) (s : State) : (beforeLevel l s).result = s.result := by simp [beforeLevel]
@[simp] theorem beforeLevel_src (l : Level) (s : State) : (beforeLevel l s).src = s.src := by simp [beforeLevel]
@[simp] theorem beforeLevel_openSend (l : Level) (s : State) : (beforeLevel l s).openSend = s.openSend := by simp [beforeLevel]
@[simp] theorem beforeLevel_inputs (l : Level) (s : State) : (beforeLevel l s).inputs = s.inputs := by simp [beforeLevel]

theorem beforeLevel_full {l : Level} {s : State} (h : s.cfg.rawbufCap ≤ s.rawlen) :
    (beforeLevel l s).rcvstate = .stopped := by
  simp [beforeLevel, State.full, h]

theorem beforeLevel_notFull {l : Level} {s : State} (h : s.rawlen < s.cfg.rawbufCap) :
    (beforeLevel l s).rcvstate = s.rcvstate := by
  simp [beforeLevel, State.full, Nat.not_le.2 h]

/-- Everything step 4 of a tick can do. -/
theorem actOnLevel_cases (l : Level) (s : State) :
    (actOnLevel l s = s ∧
      (s.rcvstate = .idle ∧ l = .space ∨ s.rcvstate = .timingMark ∧ l = .mark ∨
        s.rcvstate = .timingSpace ∧ l = .space ∧ s.timer ≤ s.cfg.gapTicks ∨ s.rcvstate = .stopped ∧ l = .space)) ∨
    (actOnLevel l s = clearTimer s ∧ l = .mark ∧
      (s.rcvstate = .idle ∧ s.timer < s.cfg.gapTicks ∨ s.rcvstate = .stopped)) ∨
    (actOnLevel l s = record 0 .timingMark s ∧ l = .mark ∧ s.rcvstate = .idle ∧ s.cfg.gapTicks ≤ s.timer) ∨
    (actOnLevel l s = record s.rawlen .timingSpace s ∧ l = .space ∧ s.rcvstate = .timingMark) ∨
    (actOnLevel l s = record s.rawlen .timingMark s ∧ l = .mark ∧ s.rcvstate = .timingSpace) ∨
    (actOnLevel l s = { s with rcvstate := .stopped } ∧ l = .space ∧ s.rcvstate = .timingSpace ∧
      s.cfg.gapTicks < s.timer) := by
  unfold actOnLevel
  rcases hr : s.rcvstate with _ | _ | _ | _ <;> cases l <;> simp
  · rcases Nat.lt_or_ge s.timer s.cfg.gapTicks with h | h <;> simp [h, Nat.not_lt.2]
  · rcases Nat.lt_or_ge s.cfg.gapTicks s.timer with h | h <;> simp [h, Nat.not_lt.2]

/-- Step 4 touches `rcvstate`, `timer`, `rawbuf`, `rawlen` only. -/
theorem actOnLevel_frame (l : Level) (s : State) :
    (actOnLevel l s).cfg = s.cfg ∧ (actOnLevel l s).blinkEn = s.blinkEn ∧ (actOnLevel l s).indOut = s.indOut ∧
      (actOnLevel l s).rxPin = s.rxPin ∧ (actOnLevel l s).rxTickEn = s.rxTickEn ∧
      (actOnLevel l s).timerMode = s.timerMode ∧ (actOnLevel l s).txKhz = s.txKhz ∧
      (actOnLevel l s).txPwmOn = s.txPwmOn ∧ (actOnLevel l s).txTrace = s.txTrace ∧
      (actOnLevel l s).result = s.result ∧ (actOnLevel l s).src = s.src ∧ (actOnLevel l s).openSend = s.openSend ∧
      (actOnLevel l s).inputs = s.inputs := by
  rcases actOnLevel_cases l s with ⟨h, -⟩ | ⟨h, -⟩ | ⟨h, -⟩ | ⟨h, -⟩ | ⟨h, -⟩ | ⟨h, -⟩ <;> simp [h]

@[simp] theorem actOnLevel_cfg (l : Level) (s : State) : (actOnLevel l s).cfg = s.cfg := (actOnLevel_frame l s).1

/-! ### Runs of ticks -/

@[simp] theorem runTicks_nil (s : State) : runTicks [] s = .next s := rfl

theorem runTicks_cons (l : Level) (ls : List Level) (s : State) :
    runTicks (l :: ls) s = runTicks ls (actOnLevel l (beforeLevel l s)) := rfl

/-- A run of ticks always completes; this is the state it ends in. -/
def ticked (ls : List Level) (s : State) : State :=
  ls.foldl (fun s l => actOnLevel l (beforeLevel l s)) s

theorem runTicks_eq (ls : List Level) (s : State) : runTicks ls s = .next (ticked ls s) := by
  induction ls generalizing s with
  | nil => rfl
  | cons l ls ih => rw [runTicks_cons, ih]; rfl

theorem ticked_append (as bs : List Level) (s : State) : ticked (as ++ bs) s = ticked bs (ticked as s) := by
  simp [ticked, List.foldl_append]

@[simp] theorem ticked_nil (s : State) : ticked [] s = s := rfl

theorem ticked_cons (l : Level) (ls : List Level) (s : State) :
    ticked (l :: ls) s = ticked ls (actOnLevel l (beforeLevel l s)) := rfl

/-- No tick changes the configuration. -/
@[simp] theorem ticked_cfg (ls : List Level) (s : State) : (ticked ls s).cfg = s.cfg := by
  induction ls generalizing s with
  | nil => rfl
  | cons l ls ih => rw [ticked_cons, ih]; simp

/-- A tick in STOPPED leaves the message alone (R130). -/
theorem tick_stopped {l : Level} {s : State} (h : s.rcvstate = .stopped) :
    (actOnLevel l (beforeLevel l s)).rcvstate = .stopped ∧ (actOnLevel l (beforeLevel l s)).rawbuf = s.rawbuf ∧
      (actOnLevel l (beforeLevel l s)).rawlen = s.rawlen ∧ (actOnLevel l (beforeLevel l s)).result = s.result := by
  have hb : (beforeLevel l s).rcvstate = .stopped := by
    rcases Nat.lt_or_ge s.rawlen s.cfg.rawbufCap with hf | hf
    · rw [beforeLevel_notFull hf, h]
    · exact beforeLevel_full hf
  unfold actOnLevel
  cases l <;> simp [hb]

/-- A whole run in STOPPED leaves the message alone: "read-only once state == STOPPED" (R41 (I-g)). -/
theorem ticked_stopped (ls : List Level) {s : State} (h : s.rcvstate = .stopped) :
    (ticked ls s).rcvstate = .stopped ∧ (ticked ls s).rawbuf = s.rawbuf ∧ (ticked ls s).rawlen = s.rawlen ∧
      (ticked ls s).result = s.result := by
  induction ls generalizing s with
  | nil => exact ⟨h, rfl, rfl, rfl⟩
  | cons l ls ih =>
    obtain ⟨h1, h2, h3, h4⟩ := tick_stopped (l := l) h
    rw [ticked_cons]
    obtain ⟨k1, k2, k3, k4⟩ := ih h1
    exact ⟨k1, k2.trans h2, k3.trans h3, k4.trans h4⟩

end Sys2Proof.Machine
end

