-- ==== Sys2Proof/Laws/Send.lean ====
section
/-! SUPPORT. What a send does to each field of the state, said once for all three send commands. -/

namespace Sys2Proof.Machine

/-- The trace element of a segment on a carrier. -/
def segmentOf (khz : Khz) (g : Level × Dur) : Segment := ⟨decide (g.1 = .mark), g.2, khz⟩

/-! ### Segments in a row -/

@[simp] theorem sendSegments_cfg (segs : List (Level × Dur)) (s : State) :
    (segs.foldl sendSegment s).cfg = s.cfg := by
  induction segs generalizing s with
  | nil => rfl
  | cons g segs ih => obtain ⟨_ | _, d⟩ := g <;> exact ih _

@[simp] theorem sendSegments_rcvstate (segs : List (Level × Dur)) (s : State) :
    (segs.foldl sendSegment s).rcvstate = s.rcvstate := by
  induction segs generalizing s with
  | nil => rfl
  | cons g segs ih => obtain ⟨_ | _, d⟩ := g <;> exact ih _

@[simp] theorem sendSegments_timer (segs : List (Level × Dur)) (s : State) :
    (segs.foldl sendSegment s).timer = s.timer := by
  induction segs generalizing s with
  | nil => rfl
  | cons g segs ih => obtain ⟨_ | _, d⟩ := g <;> exact ih _

@[simp] theorem sendSegments_rawbuf (segs : List (Level × Dur)) (s : State) :
    (segs.foldl sendSegment s).rawbuf = s.rawbuf := by
  induction segs generalizing s with
  | nil => rfl
  | cons g segs ih => obtain ⟨_ | _, d⟩ := g <;> exact ih _

@[simp] theorem sendSegments_rawlen (segs : List (Level × Dur)) (s : State) :
    (segs.foldl sendSegment s).rawlen = s.rawlen := by
  induction segs generalizing s with
  | nil => rfl
  | cons g segs ih => obtain ⟨_ | _, d⟩ := g <;> exact ih _

@[simp] theorem sendSegments_blinkEn (segs : List (Level × Dur)) (s : State) :
    (segs.foldl sendSegment s).blinkEn = s.blinkEn := by
  induction segs generalizing s with
  | nil => rfl
  | cons g segs ih => obtain ⟨_ | _, d⟩ := g <;> exact ih _

@[simp] theorem sendSegments_indOut (segs : List (Level × Dur)) (s : State) :
    (segs.foldl sendSegment s).indOut = s.indOut := by
  induction segs generalizing s with
  | nil => rfl
  | cons g segs ih => obtain ⟨_ | _, d⟩ := g <;> exact ih _

@[simp] theorem sendSegments_rxPin (segs : List (Level × Dur)) (s : State) :
    (segs.foldl sendSegment s).rxPin = s.rxPin := by
  induction segs generalizing s with
  | nil => rfl
  | cons g segs ih => obtain ⟨_ | _, d⟩ := g <;> exact ih _

@[simp] theorem sendSegments_result (segs : List (Level × Dur)) (s : State) :
    (segs.foldl sendSegment s).result = s.result := by
  induction segs generalizing s with
  | nil => rfl
  | cons g segs ih => obtain ⟨_ | _, d⟩ := g <;> exact ih _

@[simp] theorem sendSegments_src (segs : List (Level × Dur)) (s : State) :
    (segs.foldl sendSegment s).src = s.src := by
  induction segs generalizing s with
  | nil => rfl
  | cons g segs ih => obtain ⟨_ | _, d⟩ := g <;> exact ih _

@[simp] theorem sendSegments_openSend (segs : List (Level × Dur)) (s : State) :
    (segs.foldl sendSegment s).openSend = s.openSend := by
  induction segs generalizing s with
  | nil => rfl
  | cons g segs ih => obtain ⟨_ | _, d⟩ := g <;> exact ih _

@[simp] theorem sendSegments_inputs (segs : List (Level × Dur)) (s : State) :
    (segs.foldl sendSegment s).inputs = s.inputs := by
  induction segs generalizing s with
  | nil => rfl
  | cons g segs ih => obtain ⟨_ | _, d⟩ := g <;> exact ih _

@[simp] theorem sendSegments_rxTickEn (segs : List (Level × Dur)) (s : State) :
    (segs.foldl sendSegment s).rxTickEn = s.rxTickEn := by
  induction segs generalizing s with
  | nil => rfl
  | cons g segs ih => obtain ⟨_ | _, d⟩ := g <;> exact ih _

@[simp] theorem sendSegments_timerMode (segs : List (Level × Dur)) (s : State) :
    (segs.foldl sendSegment s).timerMode = s.timerMode := by
  induction segs generalizing s with
  | nil => rfl
  | cons g segs ih => obtain ⟨_ | _, d⟩ := g <;> exact ih _

@[simp] theorem sendSegments_txKhz (segs : List (Level × Dur)) (s : State) :
    (segs.foldl sendSegment s).txKhz = s.txKhz := by
  induction segs generalizing s with
  | nil => rfl
  | cons g segs ih => obtain ⟨_ | _, d⟩ := g <;> exact ih _

theorem sendSegments_txTrace (segs : List (Level × Dur)) (s : State) :
    (segs.foldl sendSegment s).txTrace = s.txTrace ++ segs.map (segmentOf s.txKhz) := by
  induction segs generalizing s with
  | nil => simp
  | cons g segs ih =>
    obtain ⟨_ | _, d⟩ := g <;> simp [sendSegment, ih, segmentOf]

/-! ### A whole send -/

@[simp] theorem wholeSend_cfg (khz : Khz) (segs : List (Level × Dur)) (s : State) :
    (wholeSend khz segs s).cfg = s.cfg := by simp [wholeSend]

@[simp] theorem wholeSend_rcvstate (khz : Khz) (segs : List (Level × Dur)) (s : State) :
    (wholeSend khz segs s).rcvstate = s.rcvstate := by simp [wholeSend]

@[simp] theorem wholeSend_timer (khz : Khz) (segs : List (Level × Dur)) (s : State) :
    (wholeSend khz segs s).timer = s.timer := by simp [wholeSend]

@[simp] theorem wholeSend_rawbuf (khz : Khz) (segs : List (Level × Dur)) (s : State) :
    (wholeSend khz segs s).rawbuf = s.rawbuf := by simp [wholeSend]

@[simp] theorem wholeSend_rawlen (khz : Khz) (segs : List (Level × Dur)) (s : State) :
    (wholeSend khz segs s).rawlen = s.rawlen := by simp [wholeSend]

@[simp] theorem wholeSend_blinkEn (khz : Khz) (segs : List (Level × Dur)) (s : State) :
    (wholeSend khz segs s).blinkEn = s.blinkEn := by simp [wholeSend]

@[simp] theorem wholeSend_indOut (khz : Khz) (segs : List (Level × Dur)) (s : State) :
    (wholeSend khz segs s).indOut = s.indOut := by simp [wholeSend]

@[simp] theorem wholeSend_rxPin (khz : Khz) (segs : List (Level × Dur)) (s : State) :
    (wholeSend khz segs s).rxPin = s.rxPin := by simp [wholeSend]

@[simp] theorem wholeSend_result (khz : Khz) (segs : List (Level × Dur)) (s : State) :
    (wholeSend khz segs s).result = s.result := by simp [wholeSend]

@[simp] theorem wholeSend_src (khz : Khz) (segs : List (Level × Dur)) (s : State) :
    (wholeSend khz segs s).src = s.src := by simp [wholeSend]

@[simp] theorem wholeSend_openSend (khz : Khz) (segs : List (Level × Dur)) (s : State) :
    (wholeSend khz segs s).openSend = s.openSend := by simp [wholeSend]

@[simp] theorem wholeSend_inputs (khz : Khz) (segs : List (Level × Dur)) (s : State) :
    (wholeSend khz segs s).inputs = s.inputs := by simp [wholeSend]

@[simp] theorem wholeSend_txKhz (khz : Khz) (segs : List (Level × Dur)) (s : State) :
    (wholeSend khz segs s).txKhz = khz := by simp [wholeSend]

/-- Every send ends with a space, so the gate is off after it (R219). -/
@[simp] theorem wholeSend_txPwmOn (khz : Khz) (segs : List (Level × Dur)) (s : State) :
    (wholeSend khz segs s).txPwmOn = false := by simp [wholeSend]

@[simp] theorem wholeSend_rxTickEn (khz : Khz) (segs : List (Level × Dur)) (s : State) :
    (wholeSend khz segs s).rxTickEn = if s.cfg.txEndRxEn = .restore ∧ s.rxTickEn = true then true else false := by
  simp [wholeSend]

@[simp] theorem wholeSend_timerMode (khz : Khz) (segs : List (Level × Dur)) (s : State) :
    (wholeSend khz segs s).timerMode =
      if s.cfg.txEndRxEn = .restore ∧ s.rxTickEn = true then .rxTick else .txPwm := by
  simp [wholeSend]

theorem wholeSend_txTrace (khz : Khz) (segs : List (Level × Dur)) (s : State) :
    (wholeSend khz segs s).txTrace = s.txTrace ++ segs.map (segmentOf khz) ++ [⟨false, 0, khz⟩] := by
  simp [wholeSend, sendSegments_txTrace]

/-! ### The source array -/

@[simp] theorem readSource_length (s : State) (buf n : Nat) : (readSource s buf n).length = n := by simp [readSource]

theorem readSource_getElem? {s : State} {buf n i : Nat} (h : i < n) :
    (readSource s buf n)[i]? = some (sourceElem s (buf + i)) := by
  simp [readSource, h]

/-- An element that the host stored reads as stored (R66). -/
theorem sourceElem_stored {s : State} {a : Nat} {d : Dur} (h : s.src.read a = some d) : sourceElem s a = d := by
  simp [sourceElem, h]

/-- Reading the array looks at the array only. -/
theorem readSource_congr {s t : State} (h : t.src = s.src) (buf n : Nat) : readSource t buf n = readSource s buf n := by
  simp [readSource, sourceElem, h]

@[simp] theorem rawSegments_length (l : Level) (ds : List Dur) : (rawSegments l ds).length = ds.length := by
  induction ds generalizing l with
  | nil => cases l <;> rfl
  | cons d ds ih => cases l <;> simp [rawSegments, ih]

theorem rawSegments_map (khz : Khz) (l : Level) (ds : List Dur) :
    (rawSegments l ds).map (segmentOf khz) =
      ds.mapIdx fun i d => ⟨decide (i % 2 = if l = .mark then 0 else 1), d, khz⟩ := by
  induction ds generalizing l with
  | nil => cases l <;> rfl
  | cons d ds ih =>
    cases l <;> simp only [rawSegments, List.map_cons, ih, List.mapIdx_cons, segmentOf] <;>
      congr 2 <;> funext i e <;> congr 1 <;> simp <;> omega

/-- The bits of a value on the line, most significant first: `2 * nbits` segments. -/
@[simp] theorem valueSegments_length (cfg : Cfg) (p : Profile) (v n : Nat) :
    (valueSegments cfg p v n).length = 2 * n := by
  induction n with
  | zero => rfl
  | succ n ih => simp [valueSegments, bitSegments, ih]; omega

@[simp] theorem profileSegments_length (cfg : Cfg) (p : Profile) (v n : Nat) :
    (profileSegments cfg p v n).length = p.header.length + 2 * n := by
  simp [profileSegments]

end Sys2Proof.Machine
end

