-- ==== Sys2Proof/Laws/Invariant.lean ====
section
/-! SUPPORT. Each shared operation keeps the invariant of R41. -/

namespace Sys2Proof

/-- The numeric clauses of a well-formed configuration (R9). -/
theorem Cfg.wf_bounds {c : Cfg} (h : c.wf = true) :
    1 ≤ c.rawbufCap ∧ 1 ≤ c.gapTicks ∧ c.gapTicks + 1 < 2 ^ c.tickW ∧ c.tolPct < 100 := by
  simp only [Cfg.wf, Bool.and_eq_true, decide_eq_true_eq] at h
  omega

end Sys2Proof

namespace Sys2Proof.Machine

/-- The invariant depends on the fields it names only. -/
theorem inv_congr {s t : State} (h : s.Inv) (h1 : t.cfg = s.cfg) (h2 : t.rcvstate = s.rcvstate) (h3 : t.timer = s.timer)
    (h4 : t.rawbuf = s.rawbuf) (h5 : t.rawlen = s.rawlen) (h6 : t.src = s.src)
    (h7 : t.rxTickEn = true → t.timerMode = .rxTick ∧ t.txPwmOn = false)
    (h8 : t.openSend ≠ none → t.rxTickEn = false ∧ t.timerMode = .txPwm) (h9 : t.openSend = none → t.txPwmOn = false) :
    t.Inv where
  cfgWf := by rw [h1]; exact h.cfgWf
  timerWidth := by rw [h1, h3]; exact h.timerWidth
  rawbufWf := by rw [h4]; exact h.rawbufWf
  srcWf := by rw [h6]; exact h.srcWf
  entries := by rw [h1, h4]; exact h.entries
  valid := by rw [h4, h5]; exact h.valid
  length := by rw [h1, h5]; exact h.length
  idle := by rw [h2, h5]; exact h.idle
  timingMark := by rw [h2, h5]; exact h.timingMark
  timingSpace := by rw [h2, h5]; exact h.timingSpace
  stopped := by rw [h2, h5, h1]; exact h.stopped
  gap := by rw [h1, h4, h5]; exact h.gap
  tickMode := h7
  inSend := h8
  gate := h9

/-- RESUME keeps the invariant. -/
theorem discard_inv {s : State} (h : s.Inv) : (discard s).Inv where
  cfgWf := h.cfgWf
  timerWidth := h.timerWidth
  rawbufWf := h.rawbufWf
  srcWf := h.srcWf
  entries := h.entries
  valid := by simp
  length := by simp
  idle := by simp
  timingMark := by simp
  timingSpace := by simp
  stopped := by simp
  gap := by simp
  tickMode := h.tickMode
  inSend := h.inSend
  gate := h.gate

/-- The capacity test is all that can change the state before the level is looked at (R123). -/
theorem beforeLevel_rcvstate (l : Level) (s : State) :
    (s.cfg.rawbufCap ≤ s.rawlen ∧ (beforeLevel l s).rcvstate = .stopped) ∨
      (s.rawlen < s.cfg.rawbufCap ∧ (beforeLevel l s).rcvstate = s.rcvstate) := by
  rcases Nat.lt_or_ge s.rawlen s.cfg.rawbufCap with hf | hf
  · exact .inr ⟨hf, beforeLevel_notFull hf⟩
  · exact .inl ⟨hf, beforeLevel_full hf⟩

/-- Steps 1 to 3 of a tick keep the invariant. -/
theorem beforeLevel_inv {s : State} (l : Level) (h : s.Inv) : (beforeLevel l s).Inv where
  cfgWf := by simpa using h.cfgWf
  timerWidth := by simp; exact Nat.mod_lt _ (by positivity)
  rawbufWf := by simpa using h.rawbufWf
  srcWf := by simpa using h.srcWf
  entries := by simpa using h.entries
  valid := by simpa using h.valid
  length := by simpa using h.length
  idle := fun he => by
    rcases beforeLevel_rcvstate l s with ⟨-, hr⟩ | ⟨-, hr⟩ <;> rw [hr] at he
    · cases he
    · simpa using h.idle he
  timingMark := fun he => by
    rcases beforeLevel_rcvstate l s with ⟨-, hr⟩ | ⟨-, hr⟩ <;> rw [hr] at he
    · cases he
    · simpa using h.timingMark he
  timingSpace := fun he => by
    rcases beforeLevel_rcvstate l s with ⟨-, hr⟩ | ⟨-, hr⟩ <;> rw [hr] at he
    · cases he
    · simpa using h.timingSpace he
  stopped := fun he => by
    have hw := Cfg.wf_bounds h.cfgWf
    rcases beforeLevel_rcvstate l s with ⟨hf, -⟩ | ⟨-, hr⟩
    · simp only [beforeLevel_rawlen, beforeLevel_cfg]
      omega
    · rw [hr] at he
      simpa using h.stopped he
  gap := by simpa using h.gap
  tickMode := by simpa using h.tickMode
  inSend := by simpa using h.inSend
  gate := by simpa using h.gate

/-- Recording the next entry with the counter keeps the invariant. -/
theorem record_inv {s : State} (h : s.Inv) {i : Nat} {next : RcvState} (hi : i = s.rawlen) (hlt : i < s.cfg.rawbufCap)
   (hn : next = .timingMark ∧ i % 2 = 0 ∨ next = .timingSpace ∧ i % 2 = 1)
    (hg : i = 0 → s.cfg.gapTicks ≤ s.timer) : (record i next s).Inv where
  cfgWf := h.cfgWf
  timerWidth := by simp
  rawbufWf := Memory.write_wf h.rawbufWf _ _
  srcWf := h.srcWf
  entries := by
    intro x hx
    rcases Memory.mem_write hx with rfl | hx
    · exact ⟨hlt, h.timerWidth⟩
    · exact h.entries x hx
  valid := by
    intro j hj
    simp only [record_rawlen, record_rawbuf, Memory.read_write] at hj ⊢
    split_ifs with hji
    · simp
    · exact h.valid j (by omega)
  length := hlt
  idle := by rcases hn with ⟨rfl, -⟩ | ⟨rfl, -⟩ <;> simp
  timingMark := by rcases hn with ⟨rfl, h⟩ | ⟨rfl, -⟩ <;> simp; omega
  timingSpace := by rcases hn with ⟨rfl, -⟩ | ⟨rfl, h⟩ <;> simp; omega
  stopped := by rcases hn with ⟨rfl, -⟩ | ⟨rfl, -⟩ <;> simp
  gap := by
    intro _
    simp only [record_rawbuf, Memory.read_write, record_cfg]
    split_ifs with h0
    · exact ⟨_, rfl, hg h0.symm⟩
    · exact h.gap (by omega)
  tickMode := h.tickMode
  inSend := h.inSend
  gate := h.gate

/-- A tick keeps the invariant. -/
theorem tick_inv {s : State} (l : Level) (h : s.Inv) : (actOnLevel l (beforeLevel l s)).Inv := by
  have hb := beforeLevel_inv l h
  have hlt : (beforeLevel l s).rcvstate ≠ .stopped → s.rawlen < s.cfg.rawbufCap := fun hne => by
    by_contra hge
    exact hne (beforeLevel_full (by omega))
  rcases actOnLevel_cases l (beforeLevel l s) with
    ⟨he, -⟩ | ⟨he, -⟩ | ⟨he, -, h', h''⟩ | ⟨he, -, h'⟩ | ⟨he, -, h'⟩ | ⟨he, -, h', -⟩
  all_goals rw [he]
  · exact hb
  · exact { hb with timerWidth := by simp }
  · have := hb.idle h'
    exact record_inv hb this.symm (by simpa [← this] using hlt (by simp [h'])) (by simp) (fun _ => h'')
  · have := hb.timingMark h'
    exact record_inv hb rfl (by simpa using hlt (by simp [h'])) (by simp at *; omega) (by omega)
  · have := hb.timingSpace h'
    exact record_inv hb rfl (by simpa using hlt (by simp [h'])) (by simp at *; omega) (by omega)
  · have h2 := hb.timingSpace h'
    refine { hb with idle := by simp, timingMark := by simp, timingSpace := by simp, stopped := ?_ }
    intro _
    exact ⟨Nat.le_trans (by omega) h2.2, fun _ => h2.2⟩

/-- A whole send keeps the invariant. -/
theorem wholeSend_inv {s : State} (h : s.Inv) (khz : Khz) (segs : List (Level × Dur)) : (wholeSend khz segs s).Inv := by
  refine inv_congr h (by simp) (by simp) (by simp) (by simp) (by simp) (by simp) (by simp) ?_ (by simp)
  intro ho
  have := h.inSend (by simpa using ho)
  simp [this.1]

/-- A micro-operation keeps the invariant inside a send. -/
theorem openSend_inv {s t : State} {prev : Bool} (h : s.Inv) (h1 : t.cfg = s.cfg) (h2 : t.rcvstate = s.rcvstate)
    (h3 : t.timer = s.timer) (h4 : t.rawbuf = s.rawbuf) (h5 : t.rawlen = s.rawlen) (h6 : t.src = s.src)
    (h7 : t.rxTickEn = false) (h8 : t.timerMode = .txPwm) (h9 : t.openSend = some prev) : t.Inv :=
  inv_congr h h1 h2 h3 h4 h5 h6 (by simp [h7]) (fun _ => ⟨h7, h8⟩) (by simp [h9])

/-- END_OF_SEND keeps the invariant. -/
theorem endOfSend_inv {s : State} (prev : Bool) (h : s.Inv) (hg : s.txPwmOn = false) : (endOfSend prev (leaveSend s)).Inv := by
  refine inv_congr h (by simp) (by simp) (by simp) (by simp) (by simp) (by simp) ?_ (by simp) (by simpa using hg)
  by_cases hc : s.cfg.txEndRxEn = .restore ∧ prev = true
  · simp [hc, hg]
  · simpa [hc] using h.tickMode

/-- What every send leaves behind: the carrier, the gate off, the timer as `TX_END_RX_EN` says, the receive side frozen (R219). -/
theorem wholeSend_kept (khz : Khz) (segs : List (Level × Dur)) (s : State) :
    (wholeSend khz segs s).txKhz = khz ∧ (wholeSend khz segs s).txPwmOn = false ∧ (wholeSend khz segs s).txOut = .low ∧
      s.timerAfterSend (wholeSend khz segs s) ∧ s.receiveKept (wholeSend khz segs s) ∧
      s.memoriesKept (wholeSend khz segs s) ∧ s.outsideKept (wholeSend khz segs s) := by
  refine ⟨by simp, by simp, by simp [State.txOut], ?_, ?_, ?_, ?_⟩
  · unfold State.timerAfterSend
    constructor <;> intro h <;> simp [h]
  · simp [State.receiveKept]
  · simp [State.memoriesKept]
  · simp [State.outsideKept]

end Sys2Proof.Machine
end

