-- ==== Sys2Proof/Laws/Line.lean ====
section
/-! SUPPORT. Merging pieces into a line (R220), and the tick stream of a trace whose durations are whole numbers of ticks (95_test_vectors.md section 4). -/

namespace Sys2Proof.Machine

/-- The level that a segment shows. -/
def segmentLevel (g : Segment) : Level := if g.on then .mark else .space

theorem traceLength_cons (g : Segment) (trace : List Segment) :
    traceLength (g :: trace) = g.dur.toNat + traceLength trace := by simp [traceLength]

theorem traceLength_ticks {trace : List Segment} (h : ∀ g ∈ trace, g.dur.toNat % 50 = 0) :
    traceLength trace % 50 = 0 := by
  induction trace with
  | nil => rfl
  | cons g trace ih =>
    rw [traceLength_cons]
    have := h g (by simp)
    have := ih fun x hx => h x (by simp [hx])
    omega

/-- Sampled at any phase below a tick, each segment shows its level for as many ticks as it lasts. -/
theorem lineLevels_ticks {trace : List Segment} {phase : Nat} (hp : phase < 50)
    (h : ∀ g ∈ trace, g.dur.toNat % 50 = 0) :
    lineLevels trace phase = trace.flatMap fun g => List.replicate (g.dur.toNat / 50) (segmentLevel g) := by
  induction trace with
  | nil => simp [lineLevels, envelopeAt]
  | cons g trace ih =>
    have hg := h g (by simp)
    have hrest : ∀ x ∈ trace, x.dur.toNat % 50 = 0 := fun x hx => h x (by simp [hx])
    have ht := traceLength_ticks hrest
    have hcount : (traceLength (g :: trace) - phase + (usecPerTick - 1)) / usecPerTick =
        g.dur.toNat / 50 + (traceLength trace - phase + (usecPerTick - 1)) / usecPerTick := by
      rw [traceLength_cons]
      simp only [usecPerTick]
      omega
    have htail : (List.range ((traceLength trace - phase + (usecPerTick - 1)) / usecPerTick)).filterMap
        (fun k => envelopeAt (g :: trace) (phase + usecPerTick * (g.dur.toNat / 50 + k))) = lineLevels trace phase := by
      refine congrFun (congrArg List.filterMap (funext fun k => ?_)) _
      have h1 : ¬ phase + usecPerTick * (g.dur.toNat / 50 + k) < g.dur.toNat := by simp only [usecPerTick]; omega
      have h2 : phase + usecPerTick * (g.dur.toNat / 50 + k) - g.dur.toNat = phase + usecPerTick * k := by
        simp only [usecPerTick]; omega
      simp only [envelopeAt, h1, if_false, h2]
    have hhead : (List.range (g.dur.toNat / 50)).filterMap (fun k => envelopeAt (g :: trace) (phase + usecPerTick * k)) =
        List.replicate (g.dur.toNat / 50) (segmentLevel g) := by
      have hsome : ∀ k ∈ List.range (g.dur.toNat / 50),
          envelopeAt (g :: trace) (phase + usecPerTick * k) = some (segmentLevel g) := by
        intro k hk
        have : phase + usecPerTick * k < g.dur.toNat := by
          have := List.mem_range.1 hk
          simp only [usecPerTick]
          omega
        simp [envelopeAt, this, segmentLevel]
      rw [List.filterMap_congr hsome]
      generalize g.dur.toNat / 50 = n
      induction n with
      | zero => rfl
      | succ n ihn => simp [List.range_succ, List.replicate_succ', ihn]
    rw [List.flatMap_cons, ← ih hrest, ← htail, ← hhead]
    conv_lhs => rw [lineLevels, hcount, List.range_add, List.filterMap_append, List.filterMap_map]
    rfl

/-! ### The line -/

/-- Everything putting a piece before a line can do: the piece is first, or its neighbour is longer by it. -/
theorem mergeInto_cases (g : LineSeg) (line : List LineSeg) :
    mergeInto g line = g :: line ∧
        (∀ x y rest, ¬(g = .low x ∧ line = .low y :: rest)) ∧ (∀ x y k rest, ¬(g = .carrier x k ∧ line = .carrier y k :: rest)) ∨
      (∃ x y rest, g = .low x ∧ line = .low y :: rest ∧ mergeInto g line = .low (x + y) :: rest) ∨
      ∃ x y k rest, g = .carrier x k ∧ line = .carrier y k :: rest ∧ mergeInto g line = .carrier (x + y) k :: rest := by
  rcases line with _ | ⟨_ | ⟨y, k'⟩, rest⟩ <;> rcases g with x | ⟨x, k⟩ <;> simp [mergeInto]
  by_cases h : k = k'
  · simp [h]
  · exact .inl ⟨h, fun _ _ _ _ _ h1 _ h2 _ => h (h1.trans h2.symm)⟩

@[simp] theorem lineLength_nil : lineLength [] = 0 := rfl

@[simp] theorem lineLength_cons (g : LineSeg) (line : List LineSeg) : lineLength (g :: line) = g.us + lineLength line := by
  simp [lineLength]

/-- Merging keeps the duration. -/
theorem lineLength_mergeInto (g : LineSeg) (line : List LineSeg) : lineLength (mergeInto g line) = g.us + lineLength line := by
  rcases mergeInto_cases g line with ⟨h, -⟩ | ⟨x, y, rest, rfl, rfl, h⟩ | ⟨x, y, k, rest, rfl, rfl, h⟩ <;>
    simp [h, LineSeg.us, Nat.add_assoc]

end Sys2Proof.Machine
end

