-- ==== Sys2Proof/Laws/Match.lean ====
section
/-! SUPPORT. The bounds of a window (R181), and what the matcher's two loops accept. -/

namespace Sys2Proof.Machine

/-- A constant that the configuration does not list keeps the formula. -/
theorem substituted_eq_none {cfg : Cfg} {k : Level} {d : Dur} (h : ∀ w ∈ cfg.windowTable, ¬(w.kind = k ∧ w.us = d)) :
    substituted cfg k d = none := by
  simp only [substituted, List.find?_eq_none]
  intro w hw
  simpa using h w hw

/-- The first entry for a kind and a constant counts. -/
theorem substituted_first {cfg : Cfg} {before after : List WindowEntry} {w : WindowEntry}
    (h : cfg.windowTable = before ++ w :: after) (hb : ∀ x ∈ before, ¬(x.kind = w.kind ∧ x.us = w.us)) :
    substituted cfg w.kind w.us = some w := by
  have hn : before.find? (fun x => decide (x.kind = w.kind) && decide (x.us = w.us)) = none := by
    rw [List.find?_eq_none]
    intro x hx
    simpa using hb x hx
  simp [substituted, h, List.find?_append, hn]

theorem formulaLo_le_formulaHi (cfg : Cfg) (k : Level) (d : Dur) : formulaLo cfg k d ≤ formulaHi cfg k d :=
  Nat.le_succ_of_le (Nat.div_le_div_right (Nat.mul_le_mul_left _ (by omega)))

/-- The header test as a condition on the entries by index. -/
theorem matchHeader_iff (cfg : Cfg) (hs : List HeaderElem) (es rest : List Nat) :
    matchHeader cfg hs es = some rest ↔ hs.length ≤ es.length ∧ rest = es.drop hs.length ∧
      ∀ k h, hs[k]? = some h → matchWindow cfg h.kind (es.getD k 0) h.us = true := by
  induction hs generalizing es with
  | nil => simp [matchHeader]; exact eq_comm
  | cons h hs ih =>
    cases es with
    | nil => simp [matchHeader]
    | cons m es =>
      simp only [matchHeader]
      split_ifs with hm
      · rw [ih]
        simp only [List.length_cons, List.drop_succ_cons, Nat.add_le_add_iff_right]
        refine and_congr_right fun _ => and_congr_right fun _ => ⟨fun hk k h' hh => ?_, fun hk k h' hh => ?_⟩
        · cases k with
          | zero => simp at hh; subst hh; simpa using hm
          | succ k => simpa using hk k h' (by simpa using hh)
        · simpa using hk (k + 1) h' (by simpa using hh)
      · simp only [false_iff, not_and, not_forall]
        intro _ _
        exact ⟨0, h, rfl, by simpa using hm⟩

/-- The bit of a mark (R194). -/
theorem classifyMark_eq_some {cfg : Cfg} {p : Profile} {m : Nat} {b : Bool} : classifyMark cfg p m = some b ↔
   (matchWindow cfg .mark m p.oneMarkUs = true ∨ matchWindow cfg .mark m p.zeroMarkUs = true) ∧
      b = matchWindow cfg .mark m p.oneMarkUs := by
  unfold classifyMark
  split_ifs with h1 h2 <;> cases b <;> simp [*]

/-- The bits of a list of pairs, most significant first, before the word is cut to `VALUE_W`. -/
def pairBits (cfg : Cfg) (p : Profile) (es : List Nat) (acc : Nat) : Nat :=
  (List.range (es.length / 2)).foldl (fun acc j => 2 * acc + (matchWindow cfg .mark (es.getD (2 * j + 1) 0) p.oneMarkUs).toNat) acc

/-- The loop over pairs as a condition on the entries by index (R185, R186). -/
theorem matchPairs_iff (cfg : Cfg) (p : Profile) : ∀ (es : List Nat) (n0 v0 n v : Nat),
    matchPairs cfg p es n0 (v0 % 2 ^ cfg.valueW) = some (n, v) ↔ n = n0 + es.length / 2 ∧
      (∀ j, j < es.length / 2 → matchWindow cfg .space (es.getD (2 * j) 0) p.bitSpaceUs = true ∧
         (matchWindow cfg .mark (es.getD (2 * j + 1) 0) p.oneMarkUs = true ∨
          matchWindow cfg .mark (es.getD (2 * j + 1) 0) p.zeroMarkUs = true)) ∧
      v = pairBits cfg p es v0 % 2 ^ cfg.valueW
  | [], n0, v0, n, v => by simp [matchPairs, pairBits]; constructor <;> (rintro ⟨rfl, rfl⟩; simp)
  | [_], n0, v0, n, v => by simp [matchPairs, pairBits]; constructor <;> (rintro ⟨rfl, rfl⟩; simp)
  | sp :: mk :: es, n0, v0, n, v => by
    have hlen : (sp :: mk :: es).length / 2 = es.length / 2 + 1 := by simp only [List.length_cons]; omega
    simp only [matchPairs]
    split_ifs with hsp
    · cases hcl : classifyMark cfg p mk with
      | none =>
        have : ¬ ∃ b, classifyMark cfg p mk = some b := by simp [hcl]
        simp only [classifyMark_eq_some, exists_and_left, exists_eq, and_true] at this
        simp only [reduceCtorEq, false_iff, not_and]
        intro _ h
        have := h 0 (by omega)
        simp at this
        tauto
      | some b =>
        have hb := classifyMark_eq_some.1 hcl
        have hacc : accumulate cfg (v0 % 2 ^ cfg.valueW) b = (2 * v0 + b.toNat) % 2 ^ cfg.valueW := by
          simp [accumulate, Nat.add_mod, Nat.mul_mod]
        simp only [hacc]
        rw [matchPairs_iff cfg p es (n0 + 1) (2 * v0 + b.toNat), hlen]
        refine and_congr (by omega) (and_congr ⟨fun h j hj => ?_, fun h j hj => ?_⟩ ?_)
        · cases j with
          | zero => simpa using ⟨hsp, hb.1⟩
          | succ j => simpa [Nat.mul_add] using h j (by omega)
        · simpa [Nat.mul_add] using h (j + 1) (by omega)
        · unfold pairBits
          rw [hlen, List.range_succ_eq_map, List.foldl_cons, List.foldl_map]
          simp [Nat.mul_add, hb.2]
    · simp only [false_iff, not_and]
      intro _ h
      have := h 0 (by omega)
      simp at this
      simp_all

end Sys2Proof.Machine
end

