-- ==== Sys2Proof/Laws/PerInstr.lean ====
section
/-! SUPPORT. Per-instruction families: facts about instructions as syntax. -/

/-- How an operation reaches the block (R94 to R96, R99): it is in exactly one of the four classes public command, internal
micro-operation, reserved opcode and tick event; the tick event alone has no opcode, an opcode has four bits, and no reserved
opcode is legal. -/
def Sys2Proof.Laws.Issued.Statement (i : Sys2Proof.Instr) : Prop :=
  i.isPublic.toNat + i.isMicro.toNat + i.isReserved.toNat + (Sys2Proof.encode i).op.isNone.toNat = 1 ∧
    (∀ op, (Sys2Proof.encode i).op = some op → op < 16) ∧ (i.isReserved = true → i.legal = false)

namespace Sys2Proof.Laws.Issued

theorem init (pin : Pin) : Statement (.init pin) := ⟨rfl, by simp [encode], by simp [Instr.isReserved]⟩
theorem blink (en : Bool) : Statement (.blink en) := ⟨rfl, by simp [encode], by simp [Instr.isReserved]⟩
theorem resume : Statement .resume := ⟨rfl, by simp [encode], by simp [Instr.isReserved]⟩
theorem decode : Statement .decode := ⟨rfl, by simp [encode], by simp [Instr.isReserved]⟩
theorem sendRaw (buf : Nat) (count : Count) (khz : Khz) : Statement (.sendRaw buf count khz) :=
  ⟨rfl, by simp [encode], by simp [Instr.isReserved]⟩
theorem sendA (value : Nat) (nbits : NBits) : Statement (.sendA value nbits) :=
  ⟨rfl, by simp [encode], by simp [Instr.isReserved]⟩
theorem sendB (value : Nat) (nbits : NBits) : Statement (.sendB value nbits) :=
  ⟨rfl, by simp [encode], by simp [Instr.isReserved]⟩
theorem enableOut (khz : Khz) : Statement (.enableOut khz) := ⟨rfl, by simp [encode], by simp [Instr.isReserved]⟩
theorem mark (dur : Dur) : Statement (.mark dur) := ⟨rfl, by simp [encode], by simp [Instr.isReserved]⟩
theorem space (dur : Dur) : Statement (.space dur) := ⟨rfl, by simp [encode], by simp [Instr.isReserved]⟩
theorem tick (level : Level) : Statement (.tick level) := ⟨rfl, by simp [encode], by simp [Instr.isReserved]⟩
theorem reserved0000 : Statement .reserved0000 := ⟨rfl, by simp [encode], fun _ => rfl⟩
theorem reserved1011 : Statement .reserved1011 := ⟨rfl, by simp [encode], fun _ => rfl⟩
theorem reserved1100 : Statement .reserved1100 := ⟨rfl, by simp [encode], fun _ => rfl⟩
theorem reserved1101 : Statement .reserved1101 := ⟨rfl, by simp [encode], fun _ => rfl⟩
theorem reserved1110 : Statement .reserved1110 := ⟨rfl, by simp [encode], fun _ => rfl⟩
theorem reserved1111 : Statement .reserved1111 := ⟨rfl, by simp [encode], fun _ => rfl⟩

end Sys2Proof.Laws.Issued
end

