-- ==== Sys2Proof/Laws/Segments.lean ====
section
/-! SUPPORT. The segments of a protocol send: which they are, that they alternate, and the bits of a value on the line (R68, R222). -/

namespace Sys2Proof.Machine

/-- Bit `j` of `n` on the line: its space, then its mark, most significant bit first. -/
theorem valueSegments_get (cfg : Cfg) (p : Profile) (V n j : Nat) (hj : j < n) :
    (valueSegments cfg p V n)[2 * j]? = some (.space, p.bitSpaceUs) ∧
    (valueSegments cfg p V n)[2 * j + 1]? =
      some (.mark, if valueBit cfg V (n - 1 - j) then p.oneMarkUs else p.zeroMarkUs) := by
  induction n generalizing j with
  | zero => omega
  | succ n ih =>
    cases j with
    | zero => simp [valueSegments, bitSegments]
    | succ j =>
      have := ih j (by omega)
      have e : n - (j + 1) = n - 1 - j := by omega
      simpa [valueSegments, bitSegments, Nat.mul_add, e, Nat.add_right_comm] using this

/-- In an unambiguous profile the zero window excludes the one window. -/
theorem window_exclusive {cfg : Cfg} {p : Profile} {m : Nat} (h : unambiguous cfg p) (hz : matchWindow cfg .mark m p.zeroMarkUs = true) :
    matchWindow cfg .mark m p.oneMarkUs = false := by
  unfold matchWindow at *
  simp only [Bool.and_eq_true, decide_eq_true_eq, Bool.and_eq_false_iff, decide_eq_false_iff_not] at *
  unfold unambiguous at h
  omega

/-- The bits of a number put together again, most significant first. -/
theorem bits_fold (V n m : Nat) :
    (List.range m).foldl (fun acc j => 2 * acc + (V.testBit (n + m - 1 - j)).toNat) 0 =
      V / 2 ^ n % 2 ^ m := by
  induction m generalizing n with
  | zero => simp [Nat.mod_one]
  | succ m ih =>
    rw [List.range_succ, List.foldl_append, List.foldl_cons, List.foldl_nil]
    have := ih (n + 1)
    simp only [show n + 1 + m - 1 = n + (m + 1) - 1 by omega] at this
    rw [this, show n + (m+1) - 1 - m = n by omega]
    rw [Nat.testBit_eq_decide_div_mod_eq,
      show 2 ^ (n+1) = 2 ^ n * 2 from Nat.pow_succ .., ← Nat.div_div_eq_div_mul,
      show 2 ^ (m+1) = 2 * 2 ^ m by omega, Nat.mod_mul]
    rcases Nat.mod_two_eq_zero_or_one (V / 2 ^ n) with h | h
    · simp [h]
    · simp [h]
      omega

/-- The kinds alternate, the first being `l`. -/
def alternates : Level → List (Level × Dur) → Prop
  | _, [] => True
  | l, g :: gs => g.1 = l ∧ alternates (otherLevel l) gs

/-- Alternating segments as runs of levels. -/
theorem levelRuns_alternates (l : Level) (segs : List (Level × Dur)) (h : alternates l segs) :
   segs.flatMap (fun g => List.replicate (g.2.toNat / 50) g.1) =
      levelRuns l (segs.map fun g => g.2.toNat / 50) := by
  induction segs generalizing l with
  | nil => rfl
  | cons g gs ih => obtain ⟨rfl, h⟩ := h; simp [levelRuns, ih _ h]

/-- The bits of a value alternate, a space first. -/
theorem alternates_value (cfg : Cfg) (p : Profile) (V n : Nat) : alternates .space (valueSegments cfg p V n) := by
  induction n with
  | zero => trivial
  | succ n ih => exact ⟨rfl, rfl, ih⟩

/-- A header that alternates, then segments that go on alternating. -/
theorem alternates_header (l : Level) (hs : List HeaderElem) (rest : List (Level × Dur)) (h : alternatesFrom l hs = true)
    (hr : alternates (if hs.length % 2 = 0 then l else otherLevel l) rest) :
    alternates l (hs.map (fun h => (h.kind, h.us)) ++ rest) := by
  induction hs generalizing l with
  | nil => simpa using hr
  | cons x hs ih =>
    simp only [alternatesFrom, Bool.and_eq_true, decide_eq_true_eq] at h
    refine ⟨h.1, ih _ (by cases l <;> simpa [otherLevel] using h.2) ?_⟩
    simp only [List.length_cons] at hr
    rcases Nat.mod_two_eq_zero_or_one hs.length with h0 | h0
    · rw [if_pos h0]; rwa [if_neg (by omega)] at hr
    · rw [if_neg (by omega)]; rw [if_pos (by omega)] at hr; cases l <;> exact hr

/-- The kind of the `k`-th segment. -/
theorem alternates_get (l : Level) (segs : List (Level × Dur)) (h : alternates l segs) (k : Nat) (g : Level × Dur) (hk : segs[k]? = some g) :
   g.1 = if k % 2 = 0 then l else otherLevel l := by
  induction segs generalizing l k with
  | nil => simp at hk
  | cons x segs ih =>
    cases k with
    | zero => simp at hk; subst hk; exact h.1
    | succ k =>
      have := ih _ h.2 k (by simpa using hk)
      rw [this]
      rcases Nat.mod_two_eq_zero_or_one k with h0 | h0
      · rw [if_pos h0, if_neg (by omega)]
      · rw [if_neg (by omega), if_pos (by omega)]; cases l <;> rfl

/-- Every segment of a protocol send is a header element or one of the three constants. -/
theorem mem_profileSegments {cfg : Cfg} {p : Profile} {V n : Nat} {g : Level × Dur} (h : g ∈ profileSegments cfg p V n) :
    (g ∈ p.header.map (fun h => (h.kind, h.us)) ∨
        g ∈ [(Level.space, p.bitSpaceUs), (Level.mark, p.oneMarkUs),
             (Level.mark, p.zeroMarkUs)]) := by
  unfold profileSegments at h
  rcases List.mem_append.1 h with h | h
  · exact .inl h
  · right
    induction n with
    | zero => simp [valueSegments] at h
    | succ n ih =>
      simp only [valueSegments, bitSegments, List.cons_append, List.nil_append, List.mem_cons] at h
      rcases h with rfl | rfl | h
      · simp
      · split <;> simp
      · exact ih (by simp [h]) h

end Sys2Proof.Machine
end

