-- ==== Sys2Proof/Laws/Sequence.lean ====
section
/-! SUPPORT. A send that is written as micro-operations, step by step (R31). -/

namespace Sys2Proof.Machine

theorem runSteps_next {s t : State} {n : Nat} (h : step s = .next t) : runSteps (n + 1) s = runSteps n t := by
  simp only [runSteps, h]

/-- The micro-operation of a segment is what its word decodes to. -/
theorem decode_segmentOp (cfg : Cfg) (g : Level × Dur) : decode cfg (encode (segmentOp g)) = .ok (segmentOp g) := by
  obtain ⟨_ | _, d⟩ := g <;> simp [segmentOp, encode, decode, decodeCommand, formatU, operand_toNat]

theorem decode_enableOut (cfg : Cfg) (khz : Khz) : decode cfg (encode (.enableOut khz)) = .ok (.enableOut khz) := by
  simp [encode, decode, decodeCommand, formatU, operand_toNat]

/-- The micro-operation of a segment does what the segment does in a whole send. -/
theorem exec_segmentOp (g : Level × Dur) (s : State) : exec (segmentOp g) s = .next (sendSegment s g) := by
  obtain ⟨_ | _, d⟩ := g <;> rfl

/-- A segment's word inside a send. -/
theorem step_segment {s : State} {g : Level × Dur} {rest : List Input} {prev : Bool} (hw : s.cfg.wf = true)
    (ho : s.openSend = some prev) (hi : s.inputs = .micro (encode (segmentOp g)) :: rest) :
    step s = .next (sendSegment { s with inputs := rest } g) := by
  have hm : (segmentOp g).isMicro = true := by obtain ⟨_ | _, d⟩ := g <;> rfl
  simp [step, hw, hi, issue, issueMicro, decode_segmentOp, hm, ho, exec_segmentOp]

/-- The ENABLE_OUT that begins a send. -/
theorem step_opening {s : State} {khz : Khz} {rest : List Input} (hw : s.cfg.wf = true) (ho : s.openSend = none)
    (hk : khz ≠ 0) (hi : s.inputs = .micro (encode (.enableOut khz)) :: rest) :
    step s = .next (startCarrier khz (beginSend { s with inputs := rest })) := by
  simp only [step, hw, hi, issue, issueMicro, decode_enableOut, Instr.isMicro, Instr.opensSend, ho, exec, execEnableOut, if_true]
  rw [if_neg hk]

/-- END_OF_SEND, with the gate off. -/
theorem step_endSend {s : State} {rest : List Input} {prev : Bool} (hw : s.cfg.wf = true) (ho : s.openSend = some prev)
    (hg : s.txPwmOn = false) (hi : s.inputs = .endSend :: rest) :
    step s = .next (endOfSend prev (leaveSend { s with inputs := rest })) := by
  simp [step, hw, hi, issue, closeSend, ho, hg]

/-- Segments neither read nor write what stands outside the block. -/
theorem sendSegments_outside (segs : List (Level × Dur)) (o : Option Bool) (es : List Input) (s : State) :
    segs.foldl sendSegment { s with openSend := o, inputs := es } =
      { segs.foldl sendSegment s with openSend := o, inputs := es } := by
  induction segs generalizing s with
  | nil => rfl
  | cons g segs ih => exact ih (sendSegment s g) ▸ by obtain ⟨_ | _, d⟩ := g <;> rfl

/-- The words of segments in a row, inside a send. -/
theorem runSteps_segments (segs : List (Level × Dur)) {s : State} {n : Nat} {rest : List Input} {prev : Bool}
    (hw : s.cfg.wf = true) (ho : s.openSend = some prev)
    (hi : s.inputs = segs.map (fun g => .micro (encode (segmentOp g))) ++ rest) :
    runSteps (segs.length + n) s = runSteps n (segs.foldl sendSegment { s with inputs := rest }) := by
  induction segs generalizing s with
  | nil => obtain rfl : s.inputs = rest := by simpa using hi
           simp
  | cons g segs ih =>
    rw [List.length_cons, Nat.add_right_comm, runSteps_next (step_segment hw ho (by simpa using hi))]
    obtain ⟨_ | _, d⟩ := g
    · exact ih (s := sendSpace d _) hw ho rfl
    · exact ih (s := sendMark d _) hw ho rfl

/-- The words of a whole send end where the atomic send ends (R31). -/
theorem runSteps_send (segs : List (Level × Dur)) {s : State} {khz : Khz} {rest : List Input} (hw : s.cfg.wf = true)
    (ho : s.openSend = none) (hk : khz ≠ 0) (hi : s.inputs = sendEvents khz segs ++ rest) :
    runSteps (segs.length + 3) s = .next (wholeSend khz segs { s with inputs := rest }) := by
  obtain ⟨u, hu⟩ : ∃ u, u = startCarrier khz (beginSend { s with
    inputs := segs.map (fun g => .micro (encode (segmentOp g))) ++ (.micro (encode (.space 0)) :: .endSend :: rest) }) :=
    ⟨_, rfl⟩
  have h1 : step s = .next u := hu ▸ step_opening hw ho hk (by simpa [sendEvents] using hi)
  have hw' : u.cfg.wf = true := by simpa [hu] using hw
  have ho' : u.openSend = some s.rxTickEn := by simp [hu]
  have hi' : u.inputs = segs.map (fun g => .micro (encode (segmentOp g))) ++
      (.micro (encode (.space 0)) :: .endSend :: rest) := by simp [hu]
  rw [runSteps_next (n := segs.length + 2) h1, runSteps_segments segs hw' ho' hi',
    runSteps_next (n := 1) (step_segment (g := (.space, 0)) (prev := s.rxTickEn) (rest := .endSend :: rest)
      (by simpa using hw') (by simpa using ho') (by simp [segmentOp])),
    runSteps_next (n := 0) (step_endSend (prev := s.rxTickEn) (rest := rest) (by simpa [sendSegment] using hw')
      (by simpa [sendSegment] using ho') (by simp [sendSegment]) (by simp [sendSegment]))]
  have h3 := sendSegments_outside segs none rest (startCarrier khz s)
  have h4 := sendSegments_outside segs (some s.rxTickEn) (.micro (encode (.space 0)) :: .endSend :: rest) (startCarrier khz s)
  simp only [startCarrier, beginSend, wholeSend, sendSegment, runSteps, ho, hu] at h3 h4 ⊢
  rw [h3, h4]
  simp [endOfSend, leaveSend, sendSpace, emit]

end Sys2Proof.Machine
end

