-- ==== Sys2Proof/Laws/Step.lean ====
section
/-! SUPPORT. What a step can do, said once. -/

namespace Sys2Proof.Machine

/-- Everything a step that goes on can be: nothing to do, or the next event. -/
theorem step_cases {s t : State} (h : step s = .next t) :
    s.cfg.wf = true ∧ (s.inputs = [] ∧ t = s ∨ ∃ e rest, s.inputs = e :: rest ∧ issue e { s with inputs := rest } = .next t) := by
  unfold step at h
  split_ifs at h with hw
  refine ⟨hw, ?_⟩
  split at h
  · rename_i hi; cases h; exact .inl ⟨hi, rfl⟩
  · rename_i e rest hi; exact .inr ⟨e, rest, hi, h⟩

/-- The host acts only outside a send. -/
theorem whileHostRuns_next {act : State → Host.Outcome State Fault Refusal} {s t : State}
    (h : whileHostRuns act s = .next t) : s.openSend = none ∧ act s = .next t := by
  unfold whileHostRuns at h
  split at h
  · exact ⟨‹_›, h⟩
  · cases h

/-- Everything the end of a send can do. -/
theorem closeSend_next {s t : State} (h : closeSend s = .next t) :
    ∃ prev, s.openSend = some prev ∧ s.txPwmOn = false ∧ t = endOfSend prev (leaveSend s) := by
  unfold closeSend at h
  split at h
  · cases h
  · split_ifs at h with hg
    cases h
    exact ⟨_, ‹_›, by simpa using hg, rfl⟩

/-- A command that goes on is a public one. -/
theorem issueHost_next {w : PortWord} {s t : State} (h : issueHost w s = .next t) :
    ∃ i, decode s.cfg w = .ok i ∧ i.isPublic = true ∧ exec i s = .next t := by
  unfold issueHost at h
  cases hd : decode s.cfg w with
  | error e => simp [hd] at h
  | ok i =>
    simp only [hd] at h
    split_ifs at h with hp
    refine ⟨i, rfl, ?_, h⟩
    cases i <;> first | rfl | (simp [Instr.isPublic, Instr.isReserved] at hp; done) | cases h

/-- A micro-operation that goes on runs inside a send, or it is the ENABLE_OUT that begins one. -/
theorem issueMicro_next {w : PortWord} {s t : State} (h : issueMicro w s = .next t) :
    ∃ i, decode s.cfg w = .ok i ∧ i.isMicro = true ∧
      ((∃ prev, s.openSend = some prev) ∧ exec i s = .next t ∨
        ∃ khz, i = .enableOut khz ∧ s.openSend = none ∧ exec i (beginSend s) = .next t) := by
  unfold issueMicro at h
  cases hd : decode s.cfg w with
  | error e => simp [hd] at h
  | ok i =>
    refine ⟨i, rfl, ?_⟩
    cases hm : i.isMicro with
    | false => simp [hd, hm] at h
    | true =>
      refine ⟨rfl, ?_⟩
      cases ho : s.openSend with
      | some prev => exact .inl ⟨⟨prev, rfl⟩, by simpa [hd, hm, ho] using h⟩
      | none =>
        simp only [hd, hm, ho, if_true] at h
        cases i <;> simp [Instr.opensSend] at h
        exact .inr ⟨_, rfl, rfl, h⟩

/-- Everything an event can be: a tick, a tick that is lost, a command of a host that no send blocks, a micro-operation, the end of a
send, or the host's own store. -/
theorem issue_cases {e : Input} {s t : State} (h : issue e s = .next t) :
    (∃ l, s.rxTickEn = true ∧ exec (.tick l) s = .next t) ∨
      (s.rxTickEn = false ∧ t = s) ∨
      (∃ i, i.isPublic = true ∧ s.openSend = none ∧ exec i s = .next t) ∨
      (∃ i prev, i.isMicro = true ∧ s.openSend = some prev ∧ exec i s = .next t) ∨
      (∃ khz, s.openSend = none ∧ exec (.enableOut khz) (beginSend s) = .next t) ∨
      (∃ prev, s.openSend = some prev ∧ s.txPwmOn = false ∧ t = endOfSend prev (leaveSend s)) ∨
      ∃ a d, s.openSend = none ∧ t = storeSource a d s := by
  cases e with
  | strobe high =>
    simp only [issue, takeTick] at h
    split_ifs at h with he
    · exact .inl ⟨_, he, h⟩
    · cases h
      exact .inr (.inl ⟨by simpa using he, rfl⟩)
  | host w =>
    obtain ⟨ho, h⟩ := whileHostRuns_next (show whileHostRuns (issueHost w) s = _ from h)
    obtain ⟨i, -, hp, h⟩ := issueHost_next h
    exact .inr (.inr (.inl ⟨i, hp, ho, h⟩))
  | micro w =>
    obtain ⟨i, -, hm, ⟨⟨prev, ho⟩, h⟩ | ⟨khz, rfl, ho, h⟩⟩ := issueMicro_next (show issueMicro w s = _ from h)
    · exact .inr (.inr (.inr (.inl ⟨i, prev, hm, ho, h⟩)))
    · exact .inr (.inr (.inr (.inr (.inl ⟨khz, ho, h⟩))))
  | endSend =>
    exact .inr (.inr (.inr (.inr (.inr (.inl (closeSend_next (show closeSend s = _ from h)))))))
  | store a d =>
    obtain ⟨ho, h⟩ := whileHostRuns_next (show whileHostRuns (fun s => .next (storeSource a d s)) s = _ from h)
    exact .inr (.inr (.inr (.inr (.inr (.inr ⟨a, d, ho, by cases h; rfl⟩)))))

end Sys2Proof.Machine
end

