-- ==== Sys2Proof/Laws/Ticks.lean ====
section
/-! SUPPORT. Runs of ticks: a level held, an edge, a trailing gap, and alternating runs (R124 to R131). -/

namespace Sys2Proof.Machine

/-- A count that does not wrap. -/
theorem counted_lt {s : State} (h : s.timer + 1 < 2 ^ s.cfg.tickW) : counted s = s.timer + 1 := Nat.mod_eq_of_lt h

/-- The message depends on the buffer and its length only. -/
theorem capturedEntries_congr_buf {s t : State} (h1 : t.rawlen = s.rawlen) (h2 : t.rawbuf = s.rawbuf) :
    capturedEntries t = capturedEntries s :=
  capturedEntries_congr h1 (by simp [h2])

/-- MARK ticks without an edge while a mark is timed. -/
theorem ticked_mark_run (n : Nat) {s : State} (h : s.rcvstate = .timingMark) (hf : s.rawlen < s.cfg.rawbufCap)
    (ht : s.timer + n < 2 ^ s.cfg.tickW) :
    (ticked (List.replicate n .mark) s).rcvstate = .timingMark ∧ (ticked (List.replicate n .mark) s).timer = s.timer + n ∧
    (ticked (List.replicate n .mark) s).rawbuf = s.rawbuf ∧ (ticked (List.replicate n .mark) s).rawlen = s.rawlen := by
  induction n generalizing s with
  | zero => simp [h]
  | succ n ih =>
    rw [List.replicate_succ, ticked_cons]
    have hb := beforeLevel_notFull (l := .mark) hf
    have ha : actOnLevel .mark (beforeLevel .mark s) = beforeLevel .mark s := by
      unfold actOnLevel; simp [hb, h]
    have hc := counted_lt (s := s) (by omega)
    rw [ha]
    have := ih (s := beforeLevel .mark s) (by rw [hb, h]) (by simpa using hf) (by simp [hc]; omega)
    simp [hc] at this
    simp [this]; omega

/-- SPACE ticks without an edge while a space is timed, up to the gap threshold. -/
theorem ticked_space_run (n : Nat) {s : State} (h : s.rcvstate = .timingSpace) (hf : s.rawlen < s.cfg.rawbufCap)
    (hw : s.cfg.gapTicks + 1 < 2 ^ s.cfg.tickW) (ht : s.timer + n ≤ s.cfg.gapTicks) :
    (ticked (List.replicate n .space) s).rcvstate = .timingSpace ∧ (ticked (List.replicate n .space) s).timer = s.timer + n ∧
    (ticked (List.replicate n .space) s).rawbuf = s.rawbuf ∧ (ticked (List.replicate n .space) s).rawlen = s.rawlen := by
  induction n generalizing s with
  | zero => simp [h]
  | succ n ih =>
    rw [List.replicate_succ, ticked_cons]
    have hb := beforeLevel_notFull (l := .space) hf
    have hc := counted_lt (s := s) (by omega)
    have ha : actOnLevel .space (beforeLevel .space s) = beforeLevel .space s := by
      unfold actOnLevel; simp [hb, h, hc]; omega
    rw [ha]
    have := ih (s := beforeLevel .space s) (by rw [hb, h]) (by simpa using hf) (by simpa using hw) (by simp [hc]; omega)
    simp [hc] at this
    simp [this]; omega

/-- The tick that ends a mark (R127). -/
theorem edge_space {s : State} (h : s.rcvstate = .timingMark) (hf : s.rawlen < s.cfg.rawbufCap) :
    actOnLevel .space (beforeLevel .space s) = record s.rawlen .timingSpace (beforeLevel .space s) := by
  have hb := beforeLevel_notFull (l := .space) hf
  unfold actOnLevel; simp [hb, h]

/-- The tick that ends a space (R128). -/
theorem edge_mark {s : State} (h : s.rcvstate = .timingSpace) (hf : s.rawlen < s.cfg.rawbufCap) :
    actOnLevel .mark (beforeLevel .mark s) = record s.rawlen .timingMark (beforeLevel .mark s) := by
  have hb := beforeLevel_notFull (l := .mark) hf
  unfold actOnLevel; simp [hb, h]

/-- An edge appends the elapsed duration to the message. -/
theorem captured_edge {s : State} {es} (l next) (h : capturedEntries s = .ok es) (hc : s.timer + 1 < 2 ^ s.cfg.tickW) :
   capturedEntries (record s.rawlen next (beforeLevel l s)) = .ok (es ++ [s.timer + 1]) := by
  have h' : capturedEntries (beforeLevel l s) = .ok es := by rw [capturedEntries_congr_buf (s := s) (by simp) (by simp), h]
  have := capturedEntries_record h' next
  simpa [counted_lt hc] using this

/-- The SPACE tick that takes the counter beyond the gap threshold (R129). -/
theorem space_tick_stops {s : State} (h : s.rcvstate = .timingSpace) (hf : s.rawlen < s.cfg.rawbufCap) (ht : s.cfg.gapTicks = s.timer)
   (hw : s.cfg.gapTicks + 1 < 2 ^ s.cfg.tickW) :
   actOnLevel .space (beforeLevel .space s) = { beforeLevel .space s with rcvstate := .stopped } := by
  have hb := beforeLevel_notFull (l := .space) hf
  have hc := counted_lt (s := s) (by omega)
  unfold actOnLevel; simp [hb, h, hc, ht]

/-- A trailing gap after a mark. -/
theorem trailing_gap {s : State} {es : List Nat} {post : Nat} (hwf : s.cfg.wf = true) (h : s.rcvstate = .timingMark)
   (hl : s.rawlen < s.cfg.rawbufCap) (he : capturedEntries s = .ok es) (hc : s.timer + 1 < 2 ^ s.cfg.tickW)
   (hp : s.cfg.gapTicks + 2 ≤ post) :
   (ticked (List.replicate post .space) s).rcvstate = .stopped ∧
      capturedEntries (ticked (List.replicate post .space) s) = .ok (es ++ [s.timer + 1]) := by
  have hw := (Cfg.wf_bounds hwf)
  have e1 := edge_space h hl
  have c1 := captured_edge .space .timingSpace he hc
  rw [← e1] at c1
  obtain ⟨q, rfl⟩ : ∃ q, post = 1 + (s.cfg.gapTicks + 1 + q) := ⟨post - (s.cfg.gapTicks + 2), by omega⟩
  rw [List.replicate_add, ticked_append, List.replicate_succ, List.replicate_zero, ticked_cons, ticked_nil]
  generalize hu : actOnLevel .space (beforeLevel .space s) = u at *
  have hcfg : u.cfg = s.cfg := by rw [e1]; simp
  have hst : u.rcvstate = .timingSpace := by rw [e1]; simp
  have hlen : u.rawlen = s.rawlen + 1 := by rw [e1]; simp
  have htm : u.timer = 0 := by rw [e1]; simp
  rcases Nat.lt_or_ge (s.rawlen + 1) s.cfg.rawbufCap with hlt | hge
  · have r := ticked_space_run s.cfg.gapTicks (s := u) hst (by rw [hlen, hcfg]; omega) (by rw [hcfg]; omega) (by rw [htm, hcfg]; omega)
    rw [List.replicate_add, ticked_append, List.replicate_succ', ticked_append, ticked_cons, ticked_nil]
    rw [space_tick_stops r.1 (by rw [r.2.2.2, ticked_cfg, hlen, hcfg]; omega)
      (by rw [r.2.1, ticked_cfg, htm, hcfg]; omega) (by rw [ticked_cfg, hcfg]; omega)]
    obtain ⟨k1, k2, k3, -⟩ := ticked_stopped (List.replicate q .space)
      (s := { beforeLevel .space (ticked (List.replicate s.cfg.gapTicks .space) u) with rcvstate := .stopped }) rfl
    refine ⟨k1, ?_⟩
    rw [capturedEntries_congr_buf k3 k2, capturedEntries_congr_buf (s := u) (by simp [r.2.2.2]) (by simp [r.2.2.1]), c1]
  · rw [show s.cfg.gapTicks + 1 + q = (s.cfg.gapTicks + q) + 1 by omega, List.replicate_succ, ticked_cons]
    have hb := beforeLevel_full (l := .space) (s := u) (by rw [hlen, hcfg]; omega)
    have ha : actOnLevel .space (beforeLevel .space u) = beforeLevel .space u := by
      unfold actOnLevel; simp [hb]
    rw [ha]
    obtain ⟨k1, k2, k3, -⟩ := ticked_stopped (List.replicate (s.cfg.gapTicks + q) .space) hb
    refine ⟨k1, ?_⟩
    rw [capturedEntries_congr_buf k3 k2, capturedEntries_congr_buf (s := u) (by simp) (by simp), c1]

/-- SPACE ticks in IDLE that do not wrap the counter (R124). -/
theorem idle_spaces (n : Nat) {s : State} (h1 : s.rcvstate = .idle) (h2 : s.rawlen < s.cfg.rawbufCap) (h3 : s.timer + n < 2 ^ s.cfg.tickW) :
   (ticked (List.replicate n .space) s).rcvstate = .idle ∧ (ticked (List.replicate n .space) s).timer = s.timer + n ∧
    (ticked (List.replicate n .space) s).rawbuf = s.rawbuf ∧ (ticked (List.replicate n .space) s).rawlen = s.rawlen := by
  induction n generalizing s with
  | zero => simp [h1]
  | succ n ih =>
    rw [List.replicate_succ, ticked_cons]
    have hb := beforeLevel_notFull (l := .space) (s := s) (by omega)
    have ha : actOnLevel .space (beforeLevel .space s) = beforeLevel .space s := by
      unfold actOnLevel; simp [hb, h1]
    have hc := counted_lt (s := s) (by omega)
    rw [ha]
    have := ih (s := beforeLevel .space s) (by rw [hb, h1]) (by simpa using h2) (by simp [hc]; omega)
    simp [hc] at this
    simp [this]; omega

/-- The state in which a level is timed. -/
def timing : Level → RcvState
  | .mark => .timingMark
  | .space => .timingSpace

/-- Runs of alternating levels, then a trailing gap, from inside a capture. -/
theorem ticked_runs (l : Level) (ns : List Nat) {s : State} {es : List Nat} {post : Nat} (hwf : s.cfg.wf = true)
   (h : s.rcvstate = timing (otherLevel l)) (he : capturedEntries s = .ok es) (hl : s.rawlen + ns.length + 1 ≤ s.cfg.rawbufCap)
   (hc : s.timer + 1 < 2 ^ s.cfg.tickW) (hp : s.cfg.gapTicks + 2 ≤ post)
   (hpar : ns.length % 2 = if l = .mark then 1 else 0)
   (hns : ∀ k n, ns[k]? = some n → 1 ≤ n ∧ (k % 2 = (if l = .mark then 0 else 1) → n < 2 ^ s.cfg.tickW) ∧
      (k % 2 = (if l = .mark then 1 else 0) → n ≤ s.cfg.gapTicks + 1)) :
   (ticked (levelRuns l ns ++ List.replicate post .space) s).rcvstate = .stopped ∧
   capturedEntries (ticked (levelRuns l ns ++ List.replicate post .space) s) = .ok (es ++ (s.timer + 1) :: ns) := by
  have hw := (Cfg.wf_bounds hwf)
  induction ns generalizing l s es with
  | nil =>
    cases l
    · exact trailing_gap hwf h (by simp at hl; omega) he hc hp
    · simp at hpar
  | cons m ns ih =>
    obtain ⟨hm1, hm2, hm3⟩ := hns 0 m rfl
    have hns' : ∀ k n, ns[k]? = some n → _ := fun k n hk => hns (k + 1) n (by simpa using hk)
    obtain ⟨q, rfl⟩ : ∃ q, m = q + 1 := ⟨m - 1, by omega⟩
    simp only [List.length_cons] at hl hpar
    simp only [levelRuns, List.replicate_succ, List.cons_append, List.append_assoc, ticked_cons]
    rw [ticked_append]
    cases l
    · -- space run, after a mark
      have e1 := edge_space h (by omega)
      have c1 := captured_edge .space .timingSpace he hc
      rw [← e1] at c1
      generalize hu : actOnLevel .space (beforeLevel .space s) = u at *
      have hcfg : u.cfg = s.cfg := by rw [e1]; simp
      have hst : u.rcvstate = .timingSpace := by rw [e1]; simp
      have hlen : u.rawlen = s.rawlen + 1 := by rw [e1]; simp
      have htm : u.timer = 0 := by rw [e1]; simp
      have r := ticked_space_run q (s := u) hst (by rw [hlen, hcfg]; omega) (by rw [hcfg]; omega)
        (by simp at hm3; rw [htm, hcfg]; omega)
      have := ih .mark (s := ticked (List.replicate q .space) u) (es := es ++ [s.timer + 1]) (by simpa [hcfg] using hwf) (by rw [r.1]; rfl)
        (by rw [capturedEntries_congr_buf r.2.2.2 r.2.2.1, c1]) (by rw [r.2.2.2, ticked_cfg, hlen, hcfg]; omega)
        (by simp at hm3; rw [r.2.1, ticked_cfg, htm, hcfg]; omega)
        (by rw [ticked_cfg, hcfg]; exact hp) (by simp at hpar ⊢; omega)
        (fun k n hk => by
          have := hns' k n hk
          rw [ticked_cfg, hcfg]; simp at this ⊢
          refine ⟨this.1, fun hk => this.2.1 (by omega), fun hk => this.2.2 (by omega)⟩) (by rw [ticked_cfg, hcfg]; exact hw)
      rw [r.2.1, htm] at this
      simpa [otherLevel] using this
    · have e1 := edge_mark h (by omega)
      have c1 := captured_edge .mark .timingMark he hc
      rw [← e1] at c1
      generalize hu : actOnLevel .mark (beforeLevel .mark s) = u at *
      have hcfg : u.cfg = s.cfg := by rw [e1]; simp
      have hst : u.rcvstate = .timingMark := by rw [e1]; simp
      have hlen : u.rawlen = s.rawlen + 1 := by rw [e1]; simp
      have htm : u.timer = 0 := by rw [e1]; simp
      have r := ticked_mark_run q (s := u) hst (by rw [hlen, hcfg]; omega)
        (by simp at hm2; rw [htm, hcfg]; omega)
      have := ih .space (s := ticked (List.replicate q .mark) u) (es := es ++ [s.timer + 1]) (by simpa [hcfg] using hwf) (by rw [r.1]; rfl)
        (by rw [capturedEntries_congr_buf r.2.2.2 r.2.2.1, c1]) (by rw [r.2.2.2, ticked_cfg, hlen, hcfg]; omega)
        (by simp at hm2; rw [r.2.1, ticked_cfg, htm, hcfg]; omega)
        (by rw [ticked_cfg, hcfg]; exact hp) (by simp at hpar ⊢; omega)
        (fun k n hk => by
          have := hns' k n hk
          rw [ticked_cfg, hcfg]; simp at this ⊢
          refine ⟨this.1, fun hk => this.2.1 (by omega), fun hk => this.2.2 (by omega)⟩) (by rw [ticked_cfg, hcfg]; exact hw)
      rw [r.2.1, htm] at this
      simpa [otherLevel] using this

end Sys2Proof.Machine
end

