-- ==== Sys2Proof/Tests/Slice0.lean ====
section
/-! SUPPORT. The model's own tests: what well-formedness refuses, words written out from the tables of 30_encoding.md, single steps
with the results that the spec's examples give, and for every obligation with hypotheses a state that meets them. -/

namespace Sys2Proof.Tests

open Sys2Proof.Machine

/-! ## Helpers -/

/-- A message as the entries of the capture space from an index on. -/
def numbered : Nat → List Nat → Memory Nat
  | _, [] => []
  | i, v :: vs => (i, v) :: numbered (i + 1) vs

/-- A receiver in a given state with a given counter and message, the tick enabled. -/
def receiver (r : RcvState) (timer : Nat) (message : List Nat) : State :=
  { State.reset with
    rcvstate := r
    timer := timer
    rawlen := message.length
    rawbuf := numbered 0 message
    rxTickEn := true
    timerMode := .rxTick }

/-- The default configuration with room for two entries only. -/
def tinyCfg : Cfg := { Cfg.default with rawbufCap := 2 }

/-- The same receiver with room for two entries only. -/
def tiny (r : RcvState) (timer : Nat) (message : List Nat) : State := { receiver r timer message with cfg := tinyCfg }

/-- A sender on 38 kHz with the gate off, in the middle of a send that began with the tick on. -/
def sending : State := { State.reset with timerMode := .txPwm, txKhz := 38, openSend := some true }

/-- A host whose array at index 4 holds the durations of the SEND_RAW example of 43_pulse_sender.md R216. -/
def withArray : State := { State.reset with src := [(4, 9000), (5, 4500), (6, 560)] }

/-! ## Well-formedness: one ill-formed term for each check -/

theorem test_wf_default : Cfg.default.wf = true := by decide
theorem test_wf_noBuffer : ({ Cfg.default with rawbufCap := 0 } : Cfg).wf = false := by decide
theorem test_wf_noGap : ({ Cfg.default with gapTicks := 0 } : Cfg).wf = false := by decide
theorem test_wf_counterTooNarrow : ({ Cfg.default with gapTicks := 255, tickW := 8 } : Cfg).wf = false := by decide
theorem test_wf_counterJustWide : ({ Cfg.default with gapTicks := 254, tickW := 8 } : Cfg).wf = true := by decide
theorem test_wf_tolerance : ({ Cfg.default with tolPct := 100 } : Cfg).wf = false := by decide
theorem test_wf_profileA : ({ Cfg.default with profileA := { defaultProfileA with carrierKhz := 0 } } : Cfg).wf = false := by
  decide
theorem test_wf_profileB : ({ Cfg.default with profileB := { defaultProfileB with carrierKhz := 0 } } : Cfg).wf = false := by
  decide
theorem test_wf_ids : ({ Cfg.default with profileA := { defaultProfileA with id := .protoB } } : Cfg).wf = true := by decide
theorem test_profile_evenHeader : ({ defaultProfileB with header := [⟨.mark, 2400⟩, ⟨.space, 600⟩] } : Profile).wf 100 = false := by
  decide
theorem test_profile_noHeader : ({ defaultProfileB with header := [] } : Profile).wf 100 = false := by decide
theorem test_profile_spaceFirst : ({ defaultProfileB with header := [⟨.space, 2400⟩] } : Profile).wf 100 = false := by decide
theorem test_profile_shortHeaderSpace :
    ({ defaultProfileA with header := [⟨.mark, 3000⟩, ⟨.space, 100⟩, ⟨.mark, 3000⟩] } : Profile).wf 100 = false := by decide
theorem test_profile_shortBitSpace : ({ defaultProfileB with bitSpaceUs := 100 } : Profile).wf 100 = false := by decide
theorem test_profile_noCarrier : ({ defaultProfileB with carrierKhz := 0 } : Profile).wf 100 = false := by decide
theorem test_fits_sendA : (Instr.sendA (2 ^ 32) 8).fits Cfg.default = false := by decide
theorem test_fits_sendB : (Instr.sendB (2 ^ 32) 8).fits Cfg.default = false := by decide
theorem test_legal_sendRaw : (Instr.sendRaw 0 1 0).legal = false := by decide
theorem test_legal_enableOut : (Instr.enableOut 0).legal = false := by decide
theorem test_legal_reserved : Instr.reserved0000.legal = false ∧ Instr.reserved1011.legal = false ∧
    Instr.reserved1100.legal = false ∧ Instr.reserved1101.legal = false ∧ Instr.reserved1110.legal = false ∧
    Instr.reserved1111.legal = false := by decide
theorem test_wf_illegal : Instr.reserved0000.wf Cfg.default = false ∧ (Instr.sendA (2 ^ 32) 8).wf Cfg.default = false := by
  decide

/-! ## Words written out from the opcode map of R96 and the formats of R95 -/

theorem test_decode_reserved0000 : decode Cfg.default ⟨some 0b0000, 7, 7, 7⟩ = .ok .reserved0000 := rfl
theorem test_decode_init : decode Cfg.default ⟨some 0b0001, 0xFF, 0, 0⟩ = .ok (.init 0xFF#8) := rfl
theorem test_decode_blink : decode Cfg.default ⟨some 0b0010, 1, 0, 0⟩ = .ok (.blink true) := rfl
theorem test_decode_resume : decode Cfg.default ⟨some 0b0011, 0, 0, 0⟩ = .ok .resume := rfl
theorem test_decode_decode : decode Cfg.default ⟨some 0b0100, 0, 0, 0⟩ = .ok .decode := rfl
theorem test_decode_sendRaw : decode Cfg.default ⟨some 0b0101, 4, 3, 38⟩ = .ok (.sendRaw 4 3#8 38#8) := rfl
theorem test_decode_sendA : decode Cfg.default ⟨some 0b0110, 5, 3, 0⟩ = .ok (.sendA 5 3#8) := rfl
theorem test_decode_sendB : decode Cfg.default ⟨some 0b0111, 0xA90, 12, 0⟩ = .ok (.sendB 0xA90 12#8) := rfl
theorem test_decode_enableOut : decode Cfg.default ⟨some 0b1000, 38, 0, 0⟩ = .ok (.enableOut 38#8) := rfl
theorem test_decode_mark : decode Cfg.default ⟨some 0b1001, 0xFFFF, 0, 0⟩ = .ok (.mark 0xFFFF#16) := rfl
theorem test_decode_space : decode Cfg.default ⟨some 0b1010, 600, 0, 0⟩ = .ok (.space 600#16) := rfl
theorem test_decode_reserved1011 : decode Cfg.default ⟨some 0b1011, 0, 0, 0⟩ = .ok .reserved1011 := rfl
theorem test_decode_reserved1100 : decode Cfg.default ⟨some 0b1100, 0, 0, 0⟩ = .ok .reserved1100 := rfl
theorem test_decode_reserved1101 : decode Cfg.default ⟨some 0b1101, 0, 0, 0⟩ = .ok .reserved1101 := rfl
theorem test_decode_reserved1110 : decode Cfg.default ⟨some 0b1110, 0, 0, 0⟩ = .ok .reserved1110 := rfl
theorem test_decode_reserved1111 : decode Cfg.default ⟨some 0b1111, 0, 0, 0⟩ = .ok .reserved1111 := rfl
theorem test_decode_tick : decode Cfg.default ⟨none, 1, 0, 0⟩ = .ok (.tick .mark) ∧
    decode Cfg.default ⟨none, 0, 0, 0⟩ = .ok (.tick .space) := ⟨rfl, rfl⟩
theorem test_decode_opcodeTooWide : decode Cfg.default ⟨some 0b10001, 0, 0, 0⟩ = .error (.opcodeTooWide 17) := rfl
theorem test_decode_pinTooWide : decode Cfg.default ⟨some 0b0001, 256, 0, 0⟩ = .error (.operandTooWide 0 256) := rfl
theorem test_decode_countTooWide : decode Cfg.default ⟨some 0b0101, 0, 256, 38⟩ = .error (.operandTooWide 1 256) := rfl
theorem test_decode_valueTooWide :
    decode Cfg.default ⟨some 0b0110, 2 ^ 32, 8, 0⟩ = .error (.operandTooWide 0 (2 ^ 32)) := by decide
theorem test_tableWord : decodeTableWord 4 0b0100 = some .decode ∧ decodeTableWord 1 1 = some (.tick .mark) := ⟨rfl, rfl⟩

/-! ## Single steps, with the results of the spec's examples -/

/-- R126: from IDLE with 199 ticks counted, the MARK tick starts a capture with the gap 200 (the example of R121). -/
theorem test_tick_gap : exec (.tick .mark) (receiver .idle 199 []) = .next (receiver .timingMark 0 [200]) := rfl

/-- R129: the 202nd SPACE tick finds 201 and stops, and the trailing space is not recorded. -/
theorem test_tick_stop :
    exec (.tick .space) (receiver .timingSpace 200 [301, 10]) = .next (receiver .stopped 201 [301, 10]) := rfl

/-- R134: from reset, `INIT 2`. -/
theorem test_init : exec (.init 2) State.reset = .next { receiver .idle 0 [] with rxPin := 2 } := rfl

/-- R134: INIT in STOPPED discards the message and zeroes the counter. -/
theorem test_init_stopped :
    exec (.init 2) { receiver .stopped 450 [301] with txPwmOn := true } =
      .next { receiver .idle 0 [] with rxPin := 2, rawbuf := [(0, 301)] } := rfl

/-- R135: after `BLINK 0` the output keeps its last value. -/
theorem test_blink : exec (.blink false) { State.reset with blinkEn := true, indOut := true } =
    .next { State.reset with indOut := true } := rfl

/-- R136: RESUME keeps the counter. -/
theorem test_resume : exec .resume (receiver .stopped 450 [301, 10]) =
    .next { receiver .idle 450 [] with rawbuf := [(0, 301), (1, 10)] } := rfl

/-- R161: the four-entry capture of the example is one bit of protocol B. -/
theorem test_decode_oneBit : exec .decode (receiver .stopped 201 [301, 48, 12, 24]) =
    .next { receiver .stopped 201 [301, 48, 12, 24] with
      result := some (.ready ⟨.protoB, 1, 1, .captureSpace, 4⟩) } := rfl

/-- R165: the four-entry capture that no profile accepts is discarded. -/
theorem test_decode_short : exec .decode (receiver .stopped 201 [301, 10, 10, 10]) =
    .next { receiver .stopped 201 [301, 10, 10, 10] with rcvstate := .idle, rawlen := 0, result := some .notReady } := rfl

/-- R216: the example of SEND_RAW, its array at index 4. -/
theorem test_sendRaw : exec (.sendRaw 4 3 38) withArray = .next { withArray with
    timerMode := .txPwm, txKhz := 38,
    txTrace := [⟨true, 9000, 38⟩, ⟨false, 4500, 38⟩, ⟨true, 560, 38⟩, ⟨false, 0, 38⟩] } := rfl

/-- R216: `count = 0` emits the final space only. -/
theorem test_sendRaw_empty : exec (.sendRaw 4 0 38) (receiver .idle 0 []) =
    .next { receiver .idle 0 [] with txKhz := 38, txTrace := [⟨false, 0, 38⟩] } := rfl

/-- R216, R250: an element that the host never stored is sent as what it reads as. -/
theorem test_sendRaw_unstored : exec (.sendRaw 7 1 38) withArray = .next { withArray with
    timerMode := .txPwm, txKhz := 38, txTrace := [⟨true, Config.unstoredSource 7, 38⟩, ⟨false, 0, 38⟩] } := rfl

/-- R217: the example `SEND_A 5, 3`. -/
theorem test_sendA : exec (.sendA 5 3) State.reset = .next { State.reset with
    timerMode := .txPwm, txKhz := 38,
    txTrace := [⟨true, 3000, 38⟩, ⟨false, 6000, 38⟩, ⟨true, 3000, 38⟩, ⟨false, 2000, 38⟩, ⟨true, 2000, 38⟩,
      ⟨false, 2000, 38⟩, ⟨true, 1000, 38⟩, ⟨false, 2000, 38⟩, ⟨true, 2000, 38⟩, ⟨false, 0, 38⟩] } := rfl

/-- R221: the example `SEND_B 0xA, 4`. -/
theorem test_sendB : exec (.sendB 0xA 4) State.reset = .next { State.reset with
    timerMode := .txPwm, txKhz := 40,
    txTrace := [⟨true, 2400, 40⟩, ⟨false, 600, 40⟩, ⟨true, 1200, 40⟩, ⟨false, 600, 40⟩, ⟨true, 600, 40⟩,
      ⟨false, 600, 40⟩, ⟨true, 1200, 40⟩, ⟨false, 600, 40⟩, ⟨true, 600, 40⟩, ⟨false, 0, 40⟩] } := rfl

/-- R213: the example of ENABLE_OUT. -/
theorem test_enableOut : exec (.enableOut 38) { receiver .timingMark 7 [301] with txPwmOn := true } =
    .next { receiver .timingMark 7 [301] with rxTickEn := false, timerMode := .txPwm, txKhz := 38 } := rfl

/-- R214: `MARK 2400` leaves the gate on. -/
theorem test_mark : exec (.mark 2400) sending =
    .next { sending with txPwmOn := true, txTrace := [⟨true, 2400, 38⟩] } := rfl

/-- R215: `SPACE 600` turns the gate off. -/
theorem test_space : exec (.space 600) { sending with txPwmOn := true } =
    .next { sending with txTrace := [⟨false, 600, 38⟩] } := rfl

/-- R93: with the default polarity a pin that reads low is a MARK. -/
theorem test_step_strobe : step { receiver .idle 199 [] with rxPin := 2, inputs := [.strobe [1, 3]] } =
    .next { receiver .timingMark 0 [200] with rxPin := 2 } := rfl

/-- R214: MARK outside a send misses its precondition, also when the timer is still with the carrier generator. -/
theorem test_step_outside : step { State.reset with timerMode := .txPwm, txKhz := 38, inputs := [.micro ⟨some 0b1001, 5, 0, 0⟩] } =
    .refused .outsideSend := rfl

/-- R213, R219: the ENABLE_OUT of a send remembers the tick enable. -/
theorem test_step_opening : step { receiver .idle 0 [] with inputs := [.micro ⟨some 0b1000, 38, 0, 0⟩] } =
    .next sending := rfl

/-- R218: no RESUME between the ENABLE_OUT of a send and its END_OF_SEND. -/
theorem test_step_blocked : step { sending with inputs := [.host ⟨some 0b0011, 0, 0, 0⟩] } = .refused .hostBlocked := rfl

/-- R219: END_OF_SEND with RESTORE puts the tick back, and not with the gate on. -/
theorem test_step_endSend : step { sending with inputs := [.endSend] } =
      .next { receiver .idle 0 [] with txKhz := 38 } ∧
    step { sending with txPwmOn := true, inputs := [.endSend] } = .refused .gateLeftOn := ⟨rfl, rfl⟩

/-- R181: a configuration that substitutes its own bounds for one constant. -/
theorem test_window_substituted :
    matchWindow { Cfg.default with windowTable := [⟨.mark, 600, 9, 19⟩] } .mark 19 600 = true ∧
    matchWindow { Cfg.default with windowTable := [⟨.mark, 600, 9, 19⟩] } .mark 20 600 = false ∧
    matchWindow { Cfg.default with windowTable := [⟨.mark, 600, 9, 19⟩] } .space 20 600 = false := by decide

/-- R220: the line is low in a space and before the first segment that lasts. -/
theorem test_line_low : lineHigh Cfg.default none [⟨true, 0, 38⟩, ⟨false, 5, 38⟩] 4999 = false := rfl

/-- R214, R220: after a list that ends on a mark the carrier of that mark runs on; after a space the line is low. -/
theorem test_line_leftOn : lineHigh Cfg.default (some 38) [⟨false, 5, 38⟩, ⟨true, 10, 38⟩] 95000 =
      carrierHigh Cfg.default 1 38 90000 ∧
    lineHigh Cfg.default none [⟨false, 5, 38⟩] 95000 = false := ⟨rfl, rfl⟩

/-- R292: after RESUME, the next capture's gap and a NOT_READY poll, the old reference reads the new gap. -/
theorem test_staleReference : hostReadRef (.ready ⟨.protoB, 1, 1, .captureSpace, 4⟩)
    { receiver .timingMark 0 [250] with rawbuf := [(0, 250), (1, 48), (2, 12), (3, 24)], result := some .notReady } 0 =
      .next 250 := rfl

/-- R182: the bounds of the example, `[10, 18]` for a mark of 600 microseconds. -/
theorem test_window : matchWindow Cfg.default .mark 10 600 = true ∧ matchWindow Cfg.default .mark 18 600 = true ∧
    matchWindow Cfg.default .mark 9 600 = false ∧ matchWindow Cfg.default .mark 19 600 = false := by decide

/-- R187: the lone last entry of the example is ignored. -/
theorem test_match_lone : matchProfile Cfg.default defaultProfileB [251, 48, 12, 24, 12, 12, 12] = some (2, 2) := by decide

/-! ## Witnesses: states that meet the hypotheses of the obligations -/

/-- A completed capture of one bit of protocol B meets the invariant. -/
theorem captured_inv : (receiver .stopped 201 [301, 48, 12, 24]).Inv where
  cfgWf := by decide
  timerWidth := by decide
  rawbufWf := by decide
  srcWf := by decide
  entries := by decide
  valid := by
    intro i hi
    have : i = 0 ∨ i = 1 ∨ i = 2 ∨ i = 3 := by
      have : i < 4 := hi
      omega
    rcases this with rfl | rfl | rfl | rfl
    exacts [⟨301, rfl⟩, ⟨48, rfl⟩, ⟨12, rfl⟩, ⟨24, rfl⟩]
  length := by decide
  idle := by decide
  timingMark := by decide
  timingSpace := by decide
  stopped := by decide
  gap := fun _ => ⟨301, rfl, by decide⟩
  tickMode := by decide
  inSend := by decide
  gate := by decide

/-- So it does with any events to come. -/
theorem stopped_inv (es : List Input) : State.Inv { receiver .stopped 201 [301, 48, 12, 24] with inputs := es } :=
  inv_congr captured_inv rfl rfl rfl rfl rfl rfl (fun _ => ⟨rfl, rfl⟩) (fun h => absurd rfl h) (fun _ => rfl)

theorem witness_StepKeepsTheInvariant : ∃ s t : State, s.Inv ∧ step s = .next t ∧ t ≠ s :=
  ⟨{ receiver .stopped 201 [301, 48, 12, 24] with inputs := [.host ⟨some 0b0100, 0, 0, 0⟩] }, { receiver .stopped 201 [301, 48, 12, 24] with result := some (.ready ⟨.protoB, 1, 1, .captureSpace, 4⟩) }, stopped_inv _, rfl,
    by decide⟩

theorem witness_LengthFitsItsRegister : ∃ s : State, s.Inv ∧ s.cfg.rawbufCap < 2 ^ 7 := ⟨_, stopped_inv [], by decide⟩

/-- A full buffer, and the tick that writes the last free entry from each of the three states; in IDLE with one entry in all. -/
theorem witness_FullBufferForcesStopped :
    (tiny .timingSpace 0 [300, 1]).cfg.rawbufCap ≤ (tiny .timingSpace 0 [300, 1]).rawlen ∧
    ((tiny .timingMark 0 [300]).rawlen + 1 = (tiny .timingMark 0 [300]).cfg.rawbufCap ∧
      (tiny .timingMark 0 [300]).rcvstate = .timingMark) ∧
    (∃ s : State, s.rawlen + 1 = s.cfg.rawbufCap ∧ s.rcvstate = .timingSpace) ∧
    ∃ s : State, s.rawlen + 1 = s.cfg.rawbufCap ∧ s.rcvstate = .idle ∧ s.rawlen = 0 ∧
      s.cfg.gapTicks ≤ (s.timer + 1) % 2 ^ s.cfg.tickW :=
  ⟨by decide, by decide,
    ⟨{ receiver .timingSpace 0 [300, 1] with cfg := { Cfg.default with rawbufCap := 3 } }, by decide, by decide⟩,
    ⟨{ receiver .idle 199 [] with cfg := { Cfg.default with rawbufCap := 1 } }, by decide, by decide, by decide, by decide⟩⟩

/-- Both clauses, at 199 and at 200 ticks after the count. -/
theorem witness_IdleMarkIsNoiseOrStartsCapture :
    ((receiver .idle 198 []).rcvstate = .idle ∧ (receiver .idle 198 []).rawlen < (receiver .idle 198 []).cfg.rawbufCap ∧
      ((receiver .idle 198 []).timer + 1) % 2 ^ (receiver .idle 198 []).cfg.tickW < (receiver .idle 198 []).cfg.gapTicks) ∧
    ((receiver .idle 199 []).rcvstate = .idle ∧ (receiver .idle 199 []).rawlen < (receiver .idle 199 []).cfg.rawbufCap ∧
      (receiver .idle 199 []).cfg.gapTicks ≤ ((receiver .idle 199 []).timer + 1) % 2 ^ (receiver .idle 199 []).cfg.tickW) := by
  decide

/-- Both states; in TIMING_SPACE the counter after the tick is the threshold, and one more. -/
theorem witness_TimingTickRecordsOrEndsMessage :
    ((receiver .timingMark 9 [301]).rawlen < (receiver .timingMark 9 [301]).cfg.rawbufCap ∧
      (receiver .timingMark 9 [301]).rcvstate = .timingMark) ∧
    ((receiver .timingSpace 199 [301, 10]).rawlen < (receiver .timingSpace 199 [301, 10]).cfg.rawbufCap ∧
      (receiver .timingSpace 199 [301, 10]).rcvstate = .timingSpace ∧ counted (receiver .timingSpace 199 [301, 10]) = 200) ∧
    ((receiver .timingSpace 200 [301, 10]).rawlen < (receiver .timingSpace 200 [301, 10]).cfg.rawbufCap ∧
      (receiver .timingSpace 200 [301, 10]).rcvstate = .timingSpace ∧
      counted (receiver .timingSpace 200 [301, 10]) = 201) := by decide

theorem witness_StoppedTickOnlyWatchesForBoundary : (receiver .stopped 201 [301, 10]).rcvstate = .stopped := by decide

theorem witness_IdleWithoutMarkStaysIdle : (receiver .idle 65535 []).rcvstate = .idle ∧
    (receiver .idle 65535 []).rawlen < (receiver .idle 65535 []).cfg.rawbufCap ∧
    (receiver .idle 65535 []).timer < 2 ^ (receiver .idle 65535 []).cfg.tickW := by decide

theorem witness_IndicatorFollowsLevelWhenEnabled :
    ({ State.reset with blinkEn := true } : State).blinkEn = true ∧ State.reset.blinkEn = false := by decide

theorem witness_TickTouchesOnlyCaptureState : (receiver .idle 199 []).rcvstate = .idle ∧
    (receiver .timingMark 9 [301]).rcvstate ≠ .idle := by decide

/-- At the last length that leaves room for the trailing tick: one entry of three. -/
theorem witness_MessageEndsAfterTheGap : ∃ s : State, s.cfg.wf = true ∧ s.rcvstate = .timingMark ∧
    s.rawlen + 1 < s.cfg.rawbufCap :=
  ⟨{ receiver .timingMark 9 [301] with cfg := { Cfg.default with rawbufCap := 3 } }, by decide, by decide, by decide⟩

/-- A gap at the threshold, one bit of protocol B with a space as long as can be captured. -/
theorem witness_CaptureRecordsTheRunLengths : ∃ (s : State) (g post : Nat) (runs : List Nat),
    s.cfg.wf = true ∧ s.rcvstate = .idle ∧ s.rawlen = 0 ∧ s.cfg.gapTicks ≤ s.timer + g + 1 ∧
    s.timer + g + 1 < 2 ^ s.cfg.tickW ∧ runs.length % 2 = 1 ∧ runs.length + 1 ≤ s.cfg.rawbufCap ∧
    (∀ k n, runs[k]? = some n → 1 ≤ n ∧ (k % 2 = 0 → n < 2 ^ s.cfg.tickW) ∧ (k % 2 = 1 → n ≤ s.cfg.gapTicks + 1)) ∧
    s.cfg.gapTicks + 2 ≤ post := by
  refine ⟨receiver .idle 0 [], 199, 202, [48, 201, 24], by decide, by decide, by decide, by decide, by decide, by decide,
    by decide, ?_, by decide⟩
  intro k n h
  match k, h with
  | 0, h => obtain rfl : 48 = n := by simpa using h
            decide
  | 1, h => obtain rfl : 201 = n := by simpa using h
            decide
  | 2, h => obtain rfl : 24 = n := by simpa using h
            decide
  | k + 3, h => simp at h

theorem witness_DecodeBeforeStoppedIsNotReady : (receiver .timingSpace 3 [301, 10]).rcvstate ≠ .stopped := by decide

/-- One capture for each clause, from the examples of R163 and R161; the counts fit. -/
theorem witness_DecodeReportsTheFirstAcceptingProfile :
    ((receiver .stopped 201 [251, 60, 120, 60, 40, 40, 40, 20, 40, 40]).rcvstate = .stopped ∧
      capturedEntries (receiver .stopped 201 [251, 60, 120, 60, 40, 40, 40, 20, 40, 40]) =
        .ok [251, 60, 120, 60, 40, 40, 40, 20, 40, 40] ∧
      matchProfile Cfg.default defaultProfileA [251, 60, 120, 60, 40, 40, 40, 20, 40, 40] = some (3, 5)) ∧
    ((receiver .stopped 201 [301, 48, 12, 24]).rcvstate = .stopped ∧
      capturedEntries (receiver .stopped 201 [301, 48, 12, 24]) = .ok [301, 48, 12, 24] ∧
      matchProfile Cfg.default defaultProfileA [301, 48, 12, 24] = none ∧
      matchProfile Cfg.default defaultProfileB [301, 48, 12, 24] = some (1, 1)) := by
  refine ⟨⟨rfl, rfl, by decide⟩, ⟨rfl, rfl, by decide, by decide⟩⟩

/-- Six entries, the least that UNKNOWN takes. -/
theorem witness_DecodeReportsUnknownCapture :
    (receiver .stopped 201 [301, 10, 10, 10, 10, 10]).rcvstate = .stopped ∧
    capturedEntries (receiver .stopped 201 [301, 10, 10, 10, 10, 10]) = .ok [301, 10, 10, 10, 10, 10] ∧
    matchProfile Cfg.default defaultProfileA [301, 10, 10, 10, 10, 10] = none ∧
    matchProfile Cfg.default defaultProfileB [301, 10, 10, 10, 10, 10] = none ∧
    6 ≤ (receiver .stopped 201 [301, 10, 10, 10, 10, 10]).rawlen := by
  refine ⟨rfl, rfl, by decide, by decide, by decide⟩

/-- Five entries, the most that is too short. -/
theorem witness_DecodeDiscardsTooShortCapture :
    (receiver .stopped 201 [301, 10, 10, 10, 10]).rcvstate = .stopped ∧
    capturedEntries (receiver .stopped 201 [301, 10, 10, 10, 10]) = .ok [301, 10, 10, 10, 10] ∧
    matchProfile Cfg.default defaultProfileA [301, 10, 10, 10, 10] = none ∧
    matchProfile Cfg.default defaultProfileB [301, 10, 10, 10, 10] = none ∧
    (receiver .stopped 201 [301, 10, 10, 10, 10]).rawlen < 6 := by
  refine ⟨rfl, rfl, by decide, by decide, by decide⟩

theorem witness_DecodeCompletesAndKeepsTheRest : ∃ s : State, s.Inv ∧ s.rcvstate = .stopped := ⟨_, stopped_inv [], rfl⟩

/-- Two states that agree on the capture and on nothing else that could be read. -/
theorem witness_DecodeReadsOnlyTheFrozenCapture : ∃ s s' t : State, s'.cfg = s.cfg ∧ s'.rcvstate = s.rcvstate ∧
    s'.rawlen = s.rawlen ∧ (∀ i, i < s.rawlen → s'.rawbuf.read i = s.rawbuf.read i) ∧ s'.timer ≠ s.timer ∧
    exec .decode s = .next t :=
  ⟨receiver .stopped 201 [301, 48, 12, 24], receiver .stopped 0 [301, 48, 12, 24], _, rfl, rfl, rfl, fun _ _ => rfl,
    by decide, rfl⟩

theorem witness_StoppedMessageDecodesAgain : ∃ (s u : State) (d : Decoded), s.rcvstate = .stopped ∧
    exec .decode s = .next u ∧ u.result = some (.ready d) :=
  ⟨receiver .stopped 201 [301, 48, 12, 24], _, ⟨.protoB, 1, 1, .captureSpace, 4⟩, rfl, rfl, rfl⟩

/-- The default configuration substitutes nothing; one that does, at its first entry. -/
theorem witness_WindowBoundsAreInclusive :
    (∀ k, ∀ w ∈ Cfg.default.windowTable, ¬(w.kind = k ∧ w.us = (600 : Dur))) ∧
    (∀ w : WindowEntry, ({ Cfg.default with windowTable := [w] } : Cfg).windowTable = [] ++ w :: [] ∧
      ∀ x ∈ ([] : List WindowEntry), ¬(x.kind = w.kind ∧ x.us = w.us)) := by
  refine ⟨?_, ?_⟩ <;> simp [Cfg.default]

/-- Each clause of the classification, with the default `PROFILE_B` at the ends of its windows. -/
theorem witness_OneIsTestedBeforeZero :
    matchWindow Cfg.default .mark 19 defaultProfileB.oneMarkUs = true ∧
    (matchWindow Cfg.default .mark 18 defaultProfileB.oneMarkUs = false ∧
      matchWindow Cfg.default .mark 18 defaultProfileB.zeroMarkUs = true) ∧
    (matchWindow Cfg.default .mark 34 defaultProfileB.oneMarkUs = false ∧
      matchWindow Cfg.default .mark 34 defaultProfileB.zeroMarkUs = false) ∧
    unambiguous Cfg.default defaultProfileB := by
  refine ⟨by decide, by decide, by decide, .inl (by decide)⟩

theorem witness_DefaultProfilesExcludeEachOther :
    matchProfile Cfg.default defaultProfileA [251, 60, 120, 60, 40, 40] = some (1, 1) := by decide

theorem witness_ReferenceReadsTheDecodedMessage : ∃ (s u t : State) (es : List Nat) (d : Decoded) (ls : List Level),
    s.rcvstate = .stopped ∧ capturedEntries s = .ok es ∧ exec .decode s = .next u ∧ u.result = some (.ready d) ∧
    runTicks ls u = .next t ∧ es[0]? = some 301 ∧ d.rawlen ≤ 4 :=
  ⟨receiver .stopped 201 [301, 48, 12, 24], _, _, [301, 48, 12, 24], ⟨.protoB, 1, 1, .captureSpace, 4⟩, [.mark, .space],
    rfl, rfl, rfl, rfl, rfl, rfl, by decide⟩

/-- Every clause: an index below both lengths, one at the live length, a state before STOPPED, and IDLE after a gap. -/
theorem witness_StaleReferenceReadsTheLiveBuffer : ∃ d : Decoded, d.rawlen = 4 ∧
    (1 < d.rawlen ∧ 1 < (receiver .timingSpace 0 [250, 9]).rawlen ∧ (receiver .timingSpace 0 [250, 9]).rawbuf.read 1 = some 9) ∧
    (2 < d.rawlen ∧ (receiver .timingSpace 0 [250, 9]).rawlen ≤ 2) ∧ (receiver .timingSpace 0 [250, 9]).rcvstate ≠ .stopped ∧
    (0 < d.rawlen ∧ (receiver .idle 199 []).rcvstate = .idle ∧ (receiver .idle 199 []).rawlen < (receiver .idle 199 []).cfg.rawbufCap ∧
      (receiver .idle 199 []).cfg.gapTicks ≤ ((receiver .idle 199 []).timer + 1) % 2 ^ (receiver .idle 199 []).cfg.tickW) :=
  ⟨⟨.protoB, 1, 1, .captureSpace, 4⟩, by decide⟩

theorem witness_EnableOutTakesTheTimer : (1 : Khz) ≠ 0 := by decide

/-- An array whose last element the host never stored, and one that it stored. -/
theorem witness_SendRawEmitsTheArray : (38 : Khz) ≠ 0 ∧ withArray.src.read (4 + 0) = some 9000 ∧ 0 < (4 : Count).toNat ∧
    withArray.src.read (4 + 3) = none ∧ 3 < (4 : Count).toNat := by decide

theorem witness_SendRawStopsOnlyWithoutACarrier : (1 : Khz) ≠ 0 := by decide

theorem witness_SendAEmitsHeaderAndBits : State.reset.cfg.profileA.carrierKhz ≠ 0 := by decide
theorem witness_SendBEmitsHeaderAndBits : State.reset.cfg.profileB.carrierKhz ≠ 0 := by decide

/-- A mark whose two pieces meet across a space of no length, at its last microsecond, and the low piece after it. -/
theorem witness_LineMergesTheTrace :
    lineOf [⟨true, 10, 38⟩, ⟨false, 0, 38⟩, ⟨true, 5, 38⟩, ⟨false, 7, 38⟩] = [.carrier 15 38, .low 7] ∧
    ([⟨true, 10, 38⟩, ⟨false, 0, 38⟩, ⟨true, 5, 38⟩, ⟨false, 7, 38⟩] : List Segment) =
      [⟨true, 10, 38⟩, ⟨false, 0, 38⟩] ++ ⟨true, 5, 38⟩ :: [⟨false, 7, 38⟩] ∧ 4 < (5 : Dur).toNat ∧ 0 < (7 : Dur).toNat := by
  decide

/-- One bit of the default `PROFILE_B` at its nominal durations. -/
theorem witness_MatcherInvertsTheSender : ∃ (V W : Nat) (es : List Nat), unambiguous Cfg.default defaultProfileB ∧ 1 ≤ W ∧
    W ≤ Cfg.default.valueW ∧ V < 2 ^ W ∧ es.length = 1 + defaultProfileB.header.length + 2 * W ∧
    ∀ k g, (profileSegments Cfg.default defaultProfileB V W)[k]? = some g →
      matchWindow Cfg.default g.1 (es.getD (1 + k) 0) g.2 = true := by
  refine ⟨1, 1, [301, 48, 12, 24], .inl (by decide), by decide, by decide, by decide, by decide, ?_⟩
  intro k g h
  match k, h with
  | 0, h => obtain rfl : (Level.mark, (2400 : Dur)) = g := Option.some.inj h
            decide
  | 1, h => obtain rfl : (Level.space, (600 : Dur)) = g := Option.some.inj h
            decide
  | 2, h => obtain rfl : (Level.mark, (1200 : Dur)) = g := Option.some.inj h
            decide
  | k + 3, h => simp [profileSegments, defaultProfileB, valueSegments, bitSegments] at h

/-- The default configuration, `SEND_A 5, 3`, sampled at the last phase, between the least gaps. -/
theorem witness_SendAThenReceiveRoundTrip : ∃ (sender sender' receiver : State) (V W phase pre post : Nat),
    useful receiver.cfg ∧ sender.cfg = receiver.cfg ∧ unambiguous receiver.cfg receiver.cfg.profileA ∧
    (∀ g : Level × Dur, (g ∈ receiver.cfg.profileA.header.map (fun h => (h.kind, h.us)) ∨
        g ∈ [(Level.space, receiver.cfg.profileA.bitSpaceUs), (Level.mark, receiver.cfg.profileA.oneMarkUs),
             (Level.mark, receiver.cfg.profileA.zeroMarkUs)]) →
      g.2.toNat % 50 = 0 ∧ 0 < g.2.toNat ∧ g.2.toNat / 50 < 2 ^ receiver.cfg.tickW ∧
        matchWindow receiver.cfg g.1 (g.2.toNat / 50) g.2 = true) ∧
    1 ≤ W ∧ W < 2 ^ 8 ∧ W ≤ receiver.cfg.valueW ∧ V < 2 ^ W ∧
    1 + receiver.cfg.profileA.header.length + 2 * W ≤ receiver.cfg.rawbufCap ∧
    phase < 50 ∧ receiver.rcvstate = .idle ∧ receiver.rawlen = 0 ∧
    receiver.cfg.gapTicks ≤ receiver.timer + pre + 1 ∧ receiver.timer + pre + 1 < 2 ^ receiver.cfg.tickW ∧
    receiver.cfg.gapTicks + 2 ≤ post ∧ exec (.sendA V (BitVec.ofNat 8 W)) sender = .next sender' := by
  refine ⟨State.reset, _, Tests.receiver .idle 0 [], 5, 3, 49, 199, 202, ⟨by decide, by decide, ⟨by decide, by decide⟩,
    ⟨by decide, by decide⟩⟩, rfl, .inl (by decide), ?_, by decide, by decide, by decide, by decide, by decide, by decide,
    rfl, rfl, by decide, by decide, by decide, rfl⟩
  intro g hg
  have hg : g = (.mark, 3000) ∨ g = (.space, 6000) ∨ g = (.space, 2000) ∨ g = (.mark, 2000) ∨ g = (.mark, 1000) := by
    simp [Tests.receiver, State.reset, Cfg.default, defaultProfileA] at hg
    tauto
  rcases hg with rfl | rfl | rfl | rfl | rfl <;> decide

theorem witness_FieldsHaveOnlyTheirWriters : ∃ t, exec (.tick .mark) (receiver .idle 199 []) = .next t ∧
    t.rcvstate ≠ (receiver .idle 199 []).rcvstate ∧ t.timer ≠ (receiver .idle 199 []).timer ∧
    t.rawbuf ≠ (receiver .idle 199 []).rawbuf ∧ t.rawlen ≠ (receiver .idle 199 []).rawlen :=
  ⟨receiver .timingMark 0 [200], rfl, by decide, by decide, by decide, by decide⟩

theorem witness_StepOnlyExtendsTheTrace : ∃ t, step { State.reset with inputs := [.host ⟨some 0b0110, 5, 3, 0⟩] } = .next t ∧
    t.txTrace ≠ [] := ⟨_, rfl, by decide⟩

/-- A send of an array that the host never stored. -/
theorem witness_LegalInstructionsComplete : ∃ s : State, s.Inv ∧ s.src.read 0 = none ∧ (Instr.sendRaw 0 1 38).legal = true :=
  ⟨_, stopped_inv [], rfl, rfl⟩

theorem witness_StepNeverFaults : ∃ s : State, s.Inv ∧ s.src.read 0 = none ∧ s.inputs = [.host ⟨some 0b0101, 0, 1, 38⟩] :=
  ⟨_, stopped_inv _, rfl, rfl⟩

theorem witness_DisabledTickIsLost : State.reset.cfg.wf = true ∧ State.reset.rxTickEn = false ∧
    ({ State.reset with inputs := [.strobe [0]] } : State).inputs = .strobe [0] :: [] := by decide

/-- Every clause: a command, a micro-operation inside a send, one that opens a send, a tick, and no event. -/
theorem witness_StepRunsTheDecodedInstruction :
    State.reset.cfg.wf = true ∧
    (State.reset.openSend = none ∧ decode State.reset.cfg ⟨some 0b0001, 2, 0, 0⟩ = .ok (.init 2) ∧
      (Instr.init 2).isPublic = true) ∧
    (sending.openSend ≠ none ∧ decode sending.cfg ⟨some 0b1001, 2400, 0, 0⟩ = .ok (.mark 2400) ∧
      (Instr.mark 2400).isMicro = true) ∧
    (decode State.reset.cfg ⟨some 0b1000, 38, 0, 0⟩ = .ok (.enableOut 38) ∧
      (Instr.enableOut 38).mnemonic = "ENABLE_OUT") ∧
    (receiver .idle 0 []).rxTickEn = true ∧ State.reset.inputs = [] := by
  refine ⟨by decide, ⟨rfl, rfl, rfl⟩, ⟨by decide, rfl, rfl⟩, ⟨rfl, rfl⟩, rfl, rfl⟩

theorem witness_HostStoreWritesItsArray : State.reset.cfg.wf = true ∧ State.reset.openSend = none ∧
    ({ State.reset with inputs := [.store 4 9000] } : State).inputs = .store 4 9000 :: [] := by decide

/-- A send that began over a captured message, with any events to come. -/
theorem sending_inv (es : List Input) : State.Inv { receiver .stopped 201 [301, 48, 12, 24] with
    rxTickEn := false, timerMode := .txPwm, openSend := some true, inputs := es } :=
  openSend_inv captured_inv rfl rfl rfl rfl rfl rfl rfl rfl rfl

/-- Every clause: a command, a store, a strobe. -/
theorem witness_SendBlocksTheHostAndTheTick : ∀ e : Input, ∃ s : State, s.Inv ∧ s.openSend ≠ none ∧ s.inputs = e :: [] :=
  fun e => ⟨_, sending_inv [e], by simp, rfl⟩

/-- Every clause: the tick on before the send and off before it, the gate on, and no send. -/
theorem witness_EndOfSendGivesTheTimerBack :
    State.reset.cfg.wf = true ∧
    (sending.openSend = some true ∧ sending.txPwmOn = false ∧ sending.cfg.txEndRxEn = .restore) ∧
    (({ sending with openSend := some false } : State).openSend = some false) ∧
    (({ sending with txPwmOn := true } : State).openSend ≠ none ∧ ({ sending with txPwmOn := true } : State).txPwmOn = true) ∧
    State.reset.openSend = none := by decide

/-- The three sends from reset: `SEND_A 5, 3`, `SEND_B 0xA, 4`, and the array of the example. -/
theorem witness_SendIsItsMicroOperations :
    (∃ s t : State, s.cfg.wf = true ∧ s.openSend = none ∧
      s.inputs = sendEvents s.cfg.profileA.carrierKhz (profileSegments s.cfg s.cfg.profileA 5 (3 : NBits).toNat) ++ [] ∧
      exec (.sendA 5 3) { s with inputs := [] } = .next t) ∧
    (∃ s t : State, s.cfg.wf = true ∧ s.openSend = none ∧
      s.inputs = sendEvents s.cfg.profileB.carrierKhz (profileSegments s.cfg s.cfg.profileB 0xA (4 : NBits).toNat) ++ [] ∧
      exec (.sendB 0xA 4) { s with inputs := [] } = .next t) ∧
    ∃ s t : State, s.cfg.wf = true ∧ s.openSend = none ∧
      s.inputs = sendEvents 38 (rawSegments .mark (readSource s 4 (3 : Count).toNat)) ++ [] ∧
      exec (.sendRaw 4 3 38) { s with inputs := [] } = .next t :=
  ⟨⟨{ State.reset with
        inputs := sendEvents 38 (profileSegments Cfg.default defaultProfileA 5 (3 : NBits).toNat) ++ [] }, _,
      by decide, rfl, rfl, rfl⟩,
    ⟨{ State.reset with
        inputs := sendEvents 40 (profileSegments Cfg.default defaultProfileB 0xA (4 : NBits).toNat) ++ [] }, _,
      by decide, rfl, rfl, rfl⟩,
    ⟨{ withArray with inputs := sendEvents 38 (rawSegments .mark [9000, 4500, 560]) ++ [] }, _,
      by decide, rfl, rfl, rfl⟩⟩

/-- Both ends of each range of refused opcodes, the tick event, and a word that does not decode. -/
theorem witness_HostPortRefusesReservedAndInternal : State.reset.cfg.wf = true ∧ State.reset.openSend = none ∧
    (∀ w, ({ State.reset with inputs := [.host w] } : State).inputs = .host w :: []) ∧
    (∀ op, op = 0 ∨ op = 11 ∨ op = 15 → op = 0 ∨ 11 ≤ op ∧ op ≤ 15) ∧
    decode State.reset.cfg ⟨some 0b1000, 38, 0, 0⟩ = .ok (.enableOut 38) ∧
    decode State.reset.cfg ⟨some 0b1010, 600, 0, 0⟩ = .ok (.space 600) ∧
    decode State.reset.cfg ⟨none, 1, 0, 0⟩ = .ok (.tick .mark) ∧
    decode State.reset.cfg ⟨some 16, 0, 0, 0⟩ = .error (.opcodeTooWide 16) ∧
    decode State.reset.cfg ⟨some 0b0010, 2, 0, 0⟩ = .error (.operandTooWide 0 2) :=
  ⟨by decide, rfl, fun _ => rfl, by omega, rfl, rfl, rfl, rfl, rfl⟩

/-- Every clause: a command, MARK with no send begun, and a word that does not decode. -/
theorem witness_SequencerRefusesWhatIsNoSend : State.reset.cfg.wf = true ∧ State.reset.openSend = none ∧
    (∀ w, ({ State.reset with inputs := [.micro w] } : State).inputs = .micro w :: []) ∧
    (decode State.reset.cfg ⟨some 0b0011, 0, 0, 0⟩ = .ok .resume ∧ Instr.resume.mnemonic ∉ ["ENABLE_OUT", "MARK", "SPACE"]) ∧
    (decode State.reset.cfg ⟨some 0b1001, 5, 0, 0⟩ = .ok (.mark 5) ∧ (Instr.mark 5).mnemonic ∈ ["MARK", "SPACE"]) ∧
    decode State.reset.cfg ⟨some 0b1001, 65536, 0, 0⟩ = .error (.operandTooWide 0 65536) :=
  ⟨by decide, rfl, fun _ => rfl, ⟨rfl, by decide⟩, ⟨rfl, by decide⟩, rfl⟩

/-- The bound of each clause, on the side that is ill formed; the default configuration is on the other side of all. -/
theorem witness_IllFormedConfigurationIsRefused :
    ¬ 1 ≤ ({ Cfg.default with rawbufCap := 0 } : Cfg).rawbufCap ∧ ¬ 1 ≤ ({ Cfg.default with gapTicks := 0 } : Cfg).gapTicks ∧
    ¬ ({ Cfg.default with gapTicks := 255, tickW := 8 } : Cfg).gapTicks + 1 <
      2 ^ ({ Cfg.default with gapTicks := 255, tickW := 8 } : Cfg).tickW ∧
    ¬ ({ Cfg.default with tolPct := 100 } : Cfg).tolPct < 100 ∧
    ({ defaultProfileA with header := [] } : Profile).header.length % 2 = 0 ∧
    ({ defaultProfileA with header := [⟨.space, 2400⟩] } : Profile).header[0]? = some ⟨.space, 2400⟩ ∧
    ¬ 100 < ({ defaultProfileB with bitSpaceUs := 100 } : Profile).bitSpaceUs.toNat ∧
    ¬ 1 ≤ ({ defaultProfileB with carrierKhz := 0 } : Profile).carrierKhz.toNat ∧ Cfg.default.wf = true := by decide

/-- The largest value that its port takes. -/
theorem witness_DecodeInvertsEncode : (Instr.sendA (2 ^ 32 - 1) 255).fits Cfg.default = true := by decide

theorem witness_EncodeInvertsDecode : decode Cfg.default ⟨some 0b0101, 4, 3, 38⟩ = .ok (.sendRaw 4 3 38) := rfl

end Sys2Proof.Tests
end

/-! # The receive state machine (40_rx_state_machine.md)

The ticks that Laws/Receive.lean and Laws/Ticks.lean leave out: in STOPPED, in IDLE on either level, and the entries that no tick
writes. Then the statements of the family, each by the lemma on its tick. -/

namespace Sys2Proof.Machine

/-! ## Ticks in STOPPED -/

theorem beforeLevel_stopped {l : Level} {s : State} (h : s.rcvstate = .stopped) : (beforeLevel l s).rcvstate = .stopped := by
  rcases Nat.lt_or_ge s.rawlen s.cfg.rawbufCap with hf | hf
  · rw [beforeLevel_notFull hf, h]
  · exact beforeLevel_full hf

theorem actOnLevel_stopped (l : Level) {s : State} (h : s.rcvstate = .stopped) :
    actOnLevel l s = if l = .mark then clearTimer s else s := by
  cases l <;> simp [actOnLevel, h]

/-- The STOPPED arm of a tick, whether the machine was in STOPPED before or the capacity test put it there (R123, R130). -/
theorem tick_in_stopped_arm {l : Level} {s : State} (h : (beforeLevel l s).rcvstate = .stopped) :
    (actOnLevel l (beforeLevel l s)).rcvstate = .stopped ∧
      (actOnLevel l (beforeLevel l s)).timer = (if l = .mark then 0 else counted s) ∧
      (actOnLevel l (beforeLevel l s)).rawlen = s.rawlen ∧ (actOnLevel l (beforeLevel l s)).rawbuf = s.rawbuf := by
  rw [actOnLevel_stopped l h]
  cases l <;> simp [h]

/-! ## Ticks in IDLE -/

/-- A SPACE tick in IDLE only counts (R124). -/
theorem tick_idle_space {s : State} (h : s.rcvstate = .idle) (hf : s.rawlen < s.cfg.rawbufCap) :
    actOnLevel .space (beforeLevel .space s) = beforeLevel .space s := by
  simp [actOnLevel, beforeLevel_notFull hf, h]

/-- A MARK tick in IDLE before the gap threshold is noise (R125). -/
theorem tick_idle_mark_noise {s : State} (h : s.rcvstate = .idle) (hf : s.rawlen < s.cfg.rawbufCap)
    (hn : counted s < s.cfg.gapTicks) :
    actOnLevel .mark (beforeLevel .mark s) = clearTimer (beforeLevel .mark s) := by
  simp [actOnLevel, beforeLevel_notFull hf, h, hn]

/-- A MARK tick in IDLE from the gap threshold on starts a capture (R126). -/
theorem tick_idle_mark_captures {s : State} (h : s.rcvstate = .idle) (hf : s.rawlen < s.cfg.rawbufCap)
    (hg : s.cfg.gapTicks ≤ counted s) :
    actOnLevel .mark (beforeLevel .mark s) = record 0 .timingMark (beforeLevel .mark s) := by
  simp [actOnLevel, beforeLevel_notFull hf, h, Nat.not_lt.2 hg]

/-- A run of SPACE ticks in IDLE, the counter wrapping at `2^TICK_W` (R124). -/
theorem ticked_idle_spaces (n : Nat) {s : State} (h : s.rcvstate = .idle) (hf : s.rawlen < s.cfg.rawbufCap)
    (ht : s.timer < 2 ^ s.cfg.tickW) :
    (ticked (List.replicate n .space) s).rcvstate = .idle ∧
      (ticked (List.replicate n .space) s).timer = (s.timer + n) % 2 ^ s.cfg.tickW ∧
      (ticked (List.replicate n .space) s).rawbuf = s.rawbuf ∧ (ticked (List.replicate n .space) s).rawlen = s.rawlen := by
  induction n generalizing s with
  | zero => simp [h, Nat.mod_eq_of_lt ht]
  | succ n ih =>
    have hc : counted s < 2 ^ s.cfg.tickW := Nat.mod_lt _ (Nat.two_pow_pos _)
    have hwrap : (counted s + n) % 2 ^ s.cfg.tickW = (s.timer + (n + 1)) % 2 ^ s.cfg.tickW := by
      rw [counted, Nat.mod_add_mod, Nat.add_assoc, Nat.add_comm 1 n]
    rw [List.replicate_succ, ticked_cons, tick_idle_space h hf]
    simpa [hwrap] using ih (s := beforeLevel .space s) (by rw [beforeLevel_notFull hf, h]) (by simpa using hf) (by simpa using hc)

/-! ## The entries a tick leaves alone -/

/-- Step 4 writes at most the first entry, from IDLE, or the one after the valid ones. -/
theorem actOnLevel_read_other (l : Level) (s : State) {i : Nat} (hi : i ≠ if s.rcvstate = .idle then 0 else s.rawlen) :
    (actOnLevel l s).rawbuf.read i = s.rawbuf.read i := by
  rcases actOnLevel_cases l s with
    ⟨h, -⟩ | ⟨h, -⟩ | ⟨h, -, hr, -⟩ | ⟨h, -, hr⟩ | ⟨h, -, hr⟩ | ⟨h, -⟩
  · rw [h]
  · rw [h, clearTimer_rawbuf]
  · rw [h, record_rawbuf, Memory.read_write_other _ _ (by simpa [hr] using hi)]
  · rw [h, record_rawbuf, Memory.read_write_other _ _ (by simpa [hr] using hi)]
  · rw [h, record_rawbuf, Memory.read_write_other _ _ (by simpa [hr] using hi)]
  · rw [h]

/-- A whole tick writes at most that entry; at capacity it writes none. -/
theorem tick_read_other (l : Level) (s : State) {i : Nat} (hi : i ≠ if s.rcvstate = .idle then 0 else s.rawlen) :
    (actOnLevel l (beforeLevel l s)).rawbuf.read i = s.rawbuf.read i := by
  rcases Nat.lt_or_ge s.rawlen s.cfg.rawbufCap with hf | hf
  · rw [actOnLevel_read_other l _ (by simpa [beforeLevel_notFull hf] using hi), beforeLevel_rawbuf]
  · obtain ⟨-, -, -, hbuf⟩ := tick_in_stopped_arm (beforeLevel_full (l := l) hf)
    rw [hbuf]

/-! ## The statements -/

/-- Settles O9, by induction on the number of SPACE ticks, the wrap of the counter carried along. -/
theorem idleWithoutMarkStaysIdle : Obligations.IdleWithoutMarkStaysIdle :=
  fun s n h hf ht => ⟨ticked (List.replicate n .space) s, runTicks_eq _ s, ticked_idle_spaces n h hf ht⟩

/-- Settles O11: the registers by the frame of step 4, the entries by the cases of what it can record. -/
theorem tickTouchesOnlyCaptureState : Obligations.TickTouchesOnlyCaptureState := by
  intro s l
  obtain ⟨hcfg, hblink, -, hpin, hen, hmode, hkhz, hgate, htrace, hresult, hsrc, hsend, hinputs⟩ :=
    actOnLevel_frame l (beforeLevel l s)
  refine ⟨_, exec_tick l s, ?_, ?_, ?_, ?_, ?_, fun i hi => tick_read_other l s hi⟩
  · simp [hblink]
  · simp [hpin]
  · simp [State.transmitKept, hen, hmode, hkhz, hgate, htrace]
  · simp [State.outsideKept, hresult, hsrc, hsend, hinputs]
  · simp [hsrc]

/-- Settles O5: at capacity by the STOPPED arm; one entry below it by the three ticks that record. -/
theorem fullBufferForcesStopped : Obligations.FullBufferForcesStopped := by
  refine ⟨fun s l hfull => ?_, fun s hlast => ?_⟩
  · obtain ⟨hstate, htimer, hlen, hbuf⟩ := tick_in_stopped_arm (beforeLevel_full (l := l) hfull)
    exact ⟨_, exec_tick l s, hstate, htimer, hlen, fun i => by rw [hbuf]⟩
  · have hf : s.rawlen < s.cfg.rawbufCap := by omega
    refine ⟨fun h => ?_, fun h => ?_, fun h hempty hgap => ?_⟩
    · refine ⟨_, exec_tick .space s, ?_⟩
      rw [edge_space h hf]
      simp [hlast, counted]
    · refine ⟨_, exec_tick .mark s, ?_⟩
      rw [edge_mark h hf]
      simp [hlast, counted]
    · refine ⟨_, exec_tick .mark s, ?_⟩
      rw [tick_idle_mark_captures h hf hgap]
      simp [← hlast, hempty, counted]

/-- Settles O6: the count of the tick itself decides between noise and a capture. -/
theorem idleMarkIsNoiseOrStartsCapture : Obligations.IdleMarkIsNoiseOrStartsCapture := by
  intro s h hf
  refine ⟨_, exec_tick .mark s, ?_⟩
  rcases Nat.lt_or_ge (counted s) s.cfg.gapTicks with hc | hc
  · rw [tick_idle_mark_noise h hf hc]
    refine ⟨rfl, fun _ => ⟨?_, ?_, ?_⟩, fun hgap => absurd hc (Nat.not_lt.2 hgap)⟩
    · simp [beforeLevel_notFull hf, h]
    · simp
    · simp
  · rw [tick_idle_mark_captures h hf hc]
    refine ⟨rfl, fun hnoise => absurd hnoise (Nat.not_lt.2 hc), fun _ => ⟨rfl, rfl, ?_, fun i hi => ?_⟩⟩
    · simp [counted]
    · simp [Memory.read_write_other _ _ hi]

/-- Settles O8: a tick in STOPPED takes the STOPPED arm, whether the buffer is full or not. -/
theorem stoppedTickOnlyWatchesForBoundary : Obligations.StoppedTickOnlyWatchesForBoundary := by
  intro s l h
  obtain ⟨hstate, htimer, hlen, hbuf⟩ := tick_in_stopped_arm (beforeLevel_stopped (l := l) h)
  exact ⟨_, exec_tick l s, hstate, htimer, hlen, fun i => by rw [hbuf]⟩

end Sys2Proof.Machine

/-! # The decode engine (41_decode_engine.md)

The two ways in which DECODE answers NOT_READY: no message is there yet, or the message is too short. Laws/Engine.lean has the cases;
here each of them is an equation. -/

namespace Sys2Proof.Machine

theorem exec_decode (s : State) : exec .decode s = execDecode s := rfl

/-- Without a message DECODE only answers NOT_READY (R162). -/
theorem execDecode_notStopped {s : State} (h : s.rcvstate ≠ .stopped) : execDecode s = .next (returnResult .notReady s) :=
  if_neg (by simpa [State.stopped] using h)

/-- Fewer than `MIN_RAW` entries that both profiles reject give no result (R161). -/
theorem decodeEntries_tooShort {cfg : Cfg} {es : List Nat} (ha : matchProfile cfg cfg.profileA es = none)
    (hb : matchProfile cfg cfg.profileB es = none) (hl : es.length < minRaw) : decodeEntries cfg es = none := by
  rcases decodeEntries_cases cfg es with ⟨r, hr, -⟩ | ⟨r, -, hr, -⟩ | ⟨-, -, hlong, -⟩ | ⟨-, -, -, hnone⟩
  · cases ha.symm.trans hr
  · cases hb.symm.trans hr
  · exact absurd hl (Nat.not_lt.2 hlong)
  · exact hnone

/-- DECODE discards a message on which the engine gives no result, as RESUME does (R165). -/
theorem execDecode_discards {s : State} {es : List Nat} (h : s.rcvstate = .stopped) (he : capturedEntries s = .ok es)
    (hd : decodeEntries s.cfg es = none) : execDecode s = .next (returnResult .notReady (discard s)) := by
  rw [execDecode_stopped h he, hd]

theorem returnResult_returnResult (r r' : DecodeResult) (s : State) :
    returnResult r (returnResult r' s) = returnResult r s := rfl

/-! ## The statements -/

/-- Settles O20: the engine gives no result, so the message goes; the state left is IDLE and holds NOT_READY already, which is all
that the second DECODE writes. -/
theorem decodeDiscardsTooShortCapture : Obligations.DecodeDiscardsTooShortCapture := by
  intro s es h he ha hb hlen
  have hshort : es.length < minRaw := by rwa [capturedEntries_length he]
  have hidle : (returnResult .notReady (discard s)).rcvstate ≠ .stopped := by simp
  refine ⟨returnResult .notReady (discard s), ?_, rfl, ?_⟩
  · rw [exec_decode, execDecode_discards h he (decodeEntries_tooShort ha hb hshort)]
  · rw [exec_decode, execDecode_notStopped hidle, returnResult_returnResult]

/-- Settles O17: outside STOPPED the engine only returns its answer. -/
theorem decodeBeforeStoppedIsNotReady : Obligations.DecodeBeforeStoppedIsNotReady :=
  fun s h => (exec_decode s).trans (execDecode_notStopped h)

end Sys2Proof.Machine

/-! # The pulse sender (43_pulse_sender.md)

SPACE as a micro-operation of its own. Laws/State.lean says what it does to each field; here are the line that a closed gate leaves
and its frame. -/

namespace Sys2Proof.Machine

theorem exec_space (d : Dur) (s : State) : exec (.space d) s = .next (sendSpace d s) := rfl

/-- The line is constant 0 while the gate is off (R29). -/
theorem txOut_of_gateOff {s : State} (h : s.txPwmOn = false) : s.txOut = .low := by
  simp [State.txOut, h]

/-- The frame of SPACE outside the transmit registers (R215). -/
theorem sendSpace_kept (d : Dur) (s : State) :
    s.receiveKept (sendSpace d s) ∧ s.memoriesKept (sendSpace d s) ∧ s.outsideKept (sendSpace d s) := by
  refine ⟨?_, ?_, ?_⟩
  · simp [State.receiveKept]
  · simp [State.memoriesKept]
  · simp [State.outsideKept]

/-! ## The statements -/

/-- Settles O33: the state answered is `sendSpace d s`; its gate is off, so its line is low. -/
theorem spaceTurnsTheGateOff : Obligations.SpaceTurnsTheGateOff := by
  intro s d
  have hgate : (sendSpace d s).txPwmOn = false := sendSpace_txPwmOn d s
  exact ⟨sendSpace d s, exec_space d s, hgate, txOut_of_gateOff hgate, sendSpace_txTrace d s, sendSpace_rxTickEn d s,
    sendSpace_timerMode d s, sendSpace_txKhz d s, sendSpace_kept d s⟩

end Sys2Proof.Machine

/-! # Encodings (30_encoding.md)

Each operand format reads back what the encoder puts on its ports; Laws/Coding.lean has the other direction. Then the statements on
the codes. -/

namespace Sys2Proof.Machine

/-! ## The operand formats on encoded operands -/

theorem formatU_eq {width : Nat} {w : PortWord} {b : BitVec width} (mk : BitVec width → Instr) (h : w.arg0 = b.toNat) :
    formatU width w mk = .ok (mk b) := by
  simp [formatU, h, operand_toNat]

theorem formatR_eq {w : PortWord} {count : Count} {khz : Khz} (mk : Nat → Count → Khz → Instr)
    (hcount : w.arg1 = count.toNat) (hkhz : w.arg2 = khz.toNat) : formatR w mk = .ok (mk w.arg0 count khz) := by
  simp [formatR, hcount, hkhz, operand_toNat]

theorem formatV_eq {cfg : Cfg} {w : PortWord} {nbits : NBits} (mk : Nat → NBits → Instr) (hvalue : w.arg0 < 2 ^ cfg.valueW)
    (hnbits : w.arg1 = nbits.toNat) : formatV cfg w mk = .ok (mk w.arg0 nbits) := by
  simp [formatV, hvalue, hnbits, operand_toNat]

/-! ## One-bit operands -/

/-- A level has the code it was read from (R93). -/
theorem code_ofCode {n : Nat} (h : n < 2) : (Level.ofCode n).code = n := by
  interval_cases n <;> rfl

/-- An enable has the bit it was read from (R95). -/
theorem toNat_beq_one (b : BitVec 1) : (b == 1#1).toNat = b.toNat := by
  revert b
  decide

/-! ## Words and instructions -/

/-- What a word presents, as far as the format of its instruction says: the operands fit, the opcode or the strobe, and every operand
port that the format uses (R95, R96). -/
def Presents (cfg : Cfg) (w : PortWord) (i : Instr) : Prop :=
  i.fits cfg = true ∧ (encode i).op = w.op ∧
    (i.mnemonic ∈ ["INIT", "BLINK", "ENABLE_OUT", "MARK", "SPACE", "TICK"] → (encode i).arg0 = w.arg0) ∧
    (i.mnemonic ∈ ["SEND_A", "SEND_B"] → (encode i).arg0 = w.arg0 ∧ (encode i).arg1 = w.arg1) ∧
    (i.mnemonic ∈ ["SEND_RAW"] → (encode i).arg0 = w.arg0 ∧ (encode i).arg1 = w.arg1 ∧ (encode i).arg2 = w.arg2)

/-- A strobe presents the tick event it decodes to. -/
theorem presents_of_strobe {cfg : Cfg} {w : PortWord} {i : Instr} (hop : w.op = none) (h : decode cfg w = .ok i) :
    Presents cfg w i := by
  rw [decode, hop] at h
  obtain ⟨b, rfl, hb, -⟩ := formatU_ok h
  simp [Presents, Instr.fits, Instr.mnemonic, encode, hop, ← hb, code_ofCode b.isLt]

/-- An opcode presents the command it decodes to: a case for each row of the opcode map (R96), opcode `k` being
`h_(k+1)` and `h_17` an opcode that is too wide. -/
theorem presents_of_command {cfg : Cfg} {w : PortWord} {i : Instr} {op : Nat} (hop : w.op = some op)
    (h : decodeCommand cfg op w = .ok i) : Presents cfg w i := by
  unfold decodeCommand at h
  split at h
  case h_2 | h_9 | h_10 | h_11 =>
    obtain ⟨b, rfl, hb, -⟩ := formatU_ok h
    simp [Presents, Instr.fits, Instr.mnemonic, encode, hop, hb]
  case h_3 =>
    obtain ⟨b, rfl, hb, -⟩ := formatU_ok h
    simp [Presents, Instr.fits, Instr.mnemonic, encode, hop, toNat_beq_one, hb]
  case h_6 =>
    obtain ⟨c, k, rfl, hc, hk⟩ := formatR_ok h
    simp [Presents, Instr.fits, Instr.mnemonic, encode, hop, hc, hk]
  case h_7 | h_8 =>
    obtain ⟨b, rfl, hb, hv⟩ := formatV_ok h
    simp [Presents, Instr.fits, Instr.mnemonic, encode, hop, hb, hv]
  case h_17 => cases h
  all_goals
    cases h
    simp [Presents, Instr.fits, Instr.mnemonic, encode, hop]

theorem presents_of_decode {cfg : Cfg} {w : PortWord} {i : Instr} (h : decode cfg w = .ok i) : Presents cfg w i := by
  cases hop : w.op with
  | none => exact presents_of_strobe hop h
  | some op =>
    rw [decode, hop] at h
    exact presents_of_command hop h

/-! ## The statements -/

/-- Settles O55: an instruction without operands by computation, the others by the format of their row. -/
theorem decodeInvertsEncode : Obligations.DecodeInvertsEncode := by
  intro cfg i hfits
  cases i with
  | init pin => exact formatU_eq .init rfl
  | blink en => cases en <;> rfl
  | sendRaw buf count khz => exact formatR_eq .sendRaw rfl rfl
  | sendA value nbits => exact formatV_eq .sendA (of_decide_eq_true hfits) rfl
  | sendB value nbits => exact formatV_eq .sendB (of_decide_eq_true hfits) rfl
  | enableOut khz => exact formatU_eq .enableOut rfl
  | mark dur => exact formatU_eq .mark rfl
  | space dur => exact formatU_eq .space rfl
  | tick level => cases level <;> rfl
  | resume | decode | reserved0000 | reserved1011 | reserved1100 | reserved1101 | reserved1110 | reserved1111 => rfl

/-- Settles O56, with an opcode and with a strobe. -/
theorem encodeInvertsDecode : Obligations.EncodeInvertsDecode :=
  fun _ _ _ h => presents_of_decode h

/-- Settles O57: seven closed words, each evaluated. -/
theorem writtenOutWordsDecode : Obligations.WrittenOutWordsDecode :=
  ⟨rfl, rfl, rfl, rfl, rfl, rfl, rfl⟩

/-- Every code of two bits is that of a capture state (R90). -/
theorem rcvState_code_surjective (c : BitVec 2) : ∃ r : RcvState, r.code = c := by
  have hc : c = 0b00#2 ∨ c = 0b01#2 ∨ c = 0b10#2 ∨ c = 0b11#2 := by
    revert c
    decide
  rcases hc with rfl | rfl | rfl | rfl
  exacts [⟨.idle, rfl⟩, ⟨.timingMark, rfl⟩, ⟨.timingSpace, rfl⟩, ⟨.stopped, rfl⟩]

/-- Settles O58: the tables by computation, the two quantified clauses by cases on the enumeration. -/
theorem enumerationCodes : Obligations.EnumerationCodes := by
  have hproto : ∀ p : Proto, p.code ≠ 0b11#2 := fun p => by cases p <;> decide
  exact ⟨rfl, rfl, rfl, rfl, rcvState_code_surjective, rfl, rfl, rfl, hproto, rfl, fun _ => rfl, rfl, rfl, rfl, rfl, rfl⟩

end Sys2Proof.Machine

/-! # Well-formedness (00_scope.md R9, 42_protocol_matchers.md R189)

The two checks as conditions, clause by clause. -/

namespace Sys2Proof.Machine

/-- Header kinds alternate exactly when the kind of an element follows from its index. -/
theorem alternatesFrom_iff (l : Level) (hs : List HeaderElem) :
    alternatesFrom l hs = true ↔ ∀ k h, hs[k]? = some h → (h.kind = l ↔ k % 2 = 0) := by
  induction hs generalizing l with
  | nil => simp [alternatesFrom]
  | cons x hs ih =>
    have hother : ∀ h : HeaderElem, (h.kind = if l = .mark then .space else .mark) ↔ ¬ h.kind = l := fun h => by
      cases l <;> cases h.kind <;> simp
    have hparity : ∀ k, (k + 1) % 2 = 0 ↔ ¬ k % 2 = 0 := fun k => by omega
    simp only [alternatesFrom, Bool.and_eq_true, decide_eq_true_eq, ih, hother]
    constructor
    · rintro ⟨hx, hrest⟩ k h hk
      cases k with
      | zero => obtain rfl : x = h := by simpa using hk
                simp [hx]
      | succ k => rw [hparity, ← hrest k h (by simpa using hk), not_not]
    · intro hall
      refine ⟨by simpa using hall 0 x rfl, fun k h hk => ?_⟩
      rw [hall (k + 1) h (by simpa using hk), hparity, not_not]

theorem headerSpacesExceed_iff (excess : Nat) (hs : List HeaderElem) :
    headerSpacesExceed excess hs = true ↔ ∀ h ∈ hs, h.kind = .space → excess < h.us.toNat := by
  have hkind : ∀ h : HeaderElem, (h.kind = .mark ∨ excess < h.us.toNat) ↔ (h.kind = .space → excess < h.us.toNat) :=
    fun h => by cases h.kind <;> simp
  simp only [headerSpacesExceed, List.all_eq_true, Bool.or_eq_true, decide_eq_true_eq, hkind]

/-- The clauses of R189. -/
theorem profile_wf_iff (excess : Nat) (p : Profile) :
    p.wf excess = true ↔ p.header.length % 2 = 1 ∧ (∀ k h, p.header[k]? = some h → (h.kind = .mark ↔ k % 2 = 0)) ∧
      (∀ h ∈ p.header, h.kind = .space → excess < h.us.toNat) ∧ excess < p.bitSpaceUs.toNat ∧ 1 ≤ p.carrierKhz.toNat := by
  simp only [Profile.wf, Bool.and_eq_true, decide_eq_true_eq, alternatesFrom_iff, headerSpacesExceed_iff, and_assoc]

/-- The clauses of R9. -/
theorem cfg_wf_iff (c : Cfg) :
    c.wf = true ↔ 1 ≤ c.rawbufCap ∧ 1 ≤ c.gapTicks ∧ c.gapTicks + 1 < 2 ^ c.tickW ∧ c.tolPct < 100 ∧
      ∀ p, p = c.profileA ∨ p = c.profileB → p.wf c.markExcessUs = true := by
  simp only [Cfg.wf, Bool.and_eq_true, decide_eq_true_eq, and_assoc, forall_eq_or_imp, forall_eq]

/-- A well-formed profile has a carrier (R189). -/
theorem carrier_ne_zero {excess : Nat} {p : Profile} (h : p.wf excess = true) : p.carrierKhz ≠ 0 := by
  obtain ⟨-, -, -, -, hc⟩ := (profile_wf_iff excess p).1 h
  intro h0
  simp [h0] at hc

theorem profileA_wf {c : Cfg} (h : c.wf = true) : c.profileA.wf c.markExcessUs = true := by
  obtain ⟨-, -, -, -, hp⟩ := (cfg_wf_iff c).1 h
  exact hp _ (.inl rfl)

theorem profileB_wf {c : Cfg} (h : c.wf = true) : c.profileB.wf c.markExcessUs = true := by
  obtain ⟨-, -, -, -, hp⟩ := (cfg_wf_iff c).1 h
  exact hp _ (.inr rfl)

end Sys2Proof.Machine

/-! # Steps

How each event that a step takes reaches the operation it names (log entries 2, 3). -/

namespace Sys2Proof.Machine

/-! ## Taking the next event -/

theorem step_noEvent {s : State} (hwf : s.cfg.wf = true) (hin : s.inputs = []) : step s = .next s := by
  simp [step, hwf, hin]

theorem step_eq_issue {s : State} {e : Input} {rest : List Input} (hwf : s.cfg.wf = true) (hin : s.inputs = e :: rest) :
    step s = issue e { s with inputs := rest } := by
  simp [step, hwf, hin]

theorem step_illFormed {s : State} (hwf : s.cfg.wf = false) : step s = .refused .illFormedConfig := by
  simp [step, hwf]

/-! ## The tick strobe -/

/-- A strobe while the tick is disabled is lost (R42). -/
theorem step_strobe_lost {s : State} {high : List Pin} {rest : List Input} (hwf : s.cfg.wf = true) (hoff : s.rxTickEn = false)
    (hin : s.inputs = .strobe high :: rest) : step s = .next { s with inputs := rest } := by
  simp [step_eq_issue hwf hin, issue, takeTick, hoff]

/-- MARK is the electrical level that the polarity names (R93). -/
theorem levelOf_eq (s : State) (high : List Pin) :
    s.levelOf high = if (s.rxPin ∈ high) = (s.cfg.rxMarkLevel = true) then .mark else .space := by
  by_cases hpin : s.rxPin ∈ high <;> cases hlevel : s.cfg.rxMarkLevel <;> simp [State.levelOf, hpin, hlevel]

/-- A strobe while the tick is enabled is a TICK with the level of the sampled pin (R93). -/
theorem step_strobe {s : State} {high : List Pin} {rest : List Input} (hwf : s.cfg.wf = true) (hon : s.rxTickEn = true)
    (hin : s.inputs = .strobe high :: rest) : step s = exec (.tick (s.levelOf high)) { s with inputs := rest } := by
  rw [step_eq_issue hwf hin]
  exact if_pos hon

/-! ## The host -/

theorem step_host {s : State} {w : PortWord} {rest : List Input} (hwf : s.cfg.wf = true) (ho : s.openSend = none)
    (hin : s.inputs = .host w :: rest) : step s = issueHost w { s with inputs := rest } := by
  simp [step_eq_issue hwf hin, issue, whileHostRuns, ho]

theorem step_store {s : State} {a : Nat} {d : Dur} {rest : List Input} (hwf : s.cfg.wf = true) (ho : s.openSend = none)
    (hin : s.inputs = .store a d :: rest) : step s = .next (storeSource a d { s with inputs := rest }) := by
  simp [step_eq_issue hwf hin, issue, whileHostRuns, ho]

theorem whileHostRuns_blocked {act : State → Host.Outcome State Fault Refusal} {s : State} (ho : s.openSend ≠ none) :
    whileHostRuns act s = .refused .hostBlocked := by
  obtain ⟨prev, hprev⟩ := Option.ne_none_iff_exists'.1 ho
  simp [whileHostRuns, hprev]

theorem issueHost_undecodable {s : State} {w : PortWord} {e : DecodeError} (hd : decode s.cfg w = .error e) :
    issueHost w s = .refused (.undecodable e) := by
  simp [issueHost, hd]

theorem issueHost_runs {s : State} {w : PortWord} {i : Instr} (hd : decode s.cfg w = .ok i)
    (hp : (i.isPublic || i.isReserved) = true) : issueHost w s = exec i s := by
  simp only [issueHost, hd, hp, if_true]

theorem issueHost_notAHostCommand {s : State} {w : PortWord} {i : Instr} (hd : decode s.cfg w = .ok i)
    (hp : (i.isPublic || i.isReserved) = false) : issueHost w s = .refused .notAHostCommand := by
  simp only [issueHost, hd, hp, Bool.false_eq_true, if_false]

/-! ## The sequencer -/

theorem step_micro {s : State} {w : PortWord} {rest : List Input} (hwf : s.cfg.wf = true) (hin : s.inputs = .micro w :: rest) :
    step s = issueMicro w { s with inputs := rest } := by
  simp [step_eq_issue hwf hin, issue]

theorem issueMicro_undecodable {s : State} {w : PortWord} {e : DecodeError} (hd : decode s.cfg w = .error e) :
    issueMicro w s = .refused (.undecodable e) := by
  simp [issueMicro, hd]

theorem issueMicro_notAMicroOperation {s : State} {w : PortWord} {i : Instr} (hd : decode s.cfg w = .ok i)
    (hm : i.isMicro = false) : issueMicro w s = .refused .notAMicroOperation := by
  simp [issueMicro, hd, hm]

theorem issueMicro_inSend {s : State} {w : PortWord} {i : Instr} (hd : decode s.cfg w = .ok i) (hm : i.isMicro = true)
    (ho : s.openSend ≠ none) : issueMicro w s = exec i s := by
  obtain ⟨prev, hprev⟩ := Option.ne_none_iff_exists'.1 ho
  simp [issueMicro, hd, hm, hprev]

theorem issueMicro_opening {s : State} {w : PortWord} {khz : Khz} (hd : decode s.cfg w = .ok (.enableOut khz))
    (ho : s.openSend = none) : issueMicro w s = exec (.enableOut khz) (beginSend s) := by
  simp [issueMicro, hd, ho, Instr.isMicro, Instr.opensSend]

theorem issueMicro_outsideSend {s : State} {w : PortWord} {i : Instr} (hd : decode s.cfg w = .ok i) (hm : i.isMicro = true)
    (hopens : i.opensSend = false) (ho : s.openSend = none) : issueMicro w s = .refused .outsideSend := by
  simp [issueMicro, hd, hm, hopens, ho]

theorem closeSend_running {s : State} {prev : Bool} (ho : s.openSend = some prev) :
    closeSend s = if s.txPwmOn then .refused .gateLeftOn else .next (endOfSend prev (leaveSend s)) := by
  simp [closeSend, ho]

theorem closeSend_outside {s : State} (ho : s.openSend = none) : closeSend s = .refused .outsideSend := by
  simp [closeSend, ho]

/-! ## Why a step refuses -/

theorem execDecode_ne_refused (s : State) (r : Refusal) : execDecode s ≠ .refused r := by
  unfold execDecode
  split
  · split
    · simp
    · split <;> simp
  · simp

/-- An instruction refuses for want of a carrier or because it is reserved (R99). -/
theorem exec_refused {i : Instr} {s : State} {r : Refusal} (h : exec i s = .refused r) :
    r = .zeroCarrier ∨ ∃ op, r = .reservedOpcode op := by
  cases i with
  | init | blink | resume | mark | space | tick => cases h
  | decode => exact absurd h (execDecode_ne_refused s r)
  | sendRaw | enableOut =>
    simp only [exec, execSendRaw, execEnableOut] at h
    split_ifs at h
    cases h
    exact .inl rfl
  | sendA | sendB =>
    simp only [exec, execSendA, execSendB, sendProfile] at h
    split_ifs at h
    cases h
    exact .inl rfl
  | reserved0000 | reserved1011 | reserved1100 | reserved1101 | reserved1110 | reserved1111 =>
    cases h
    exact .inr ⟨_, rfl⟩

theorem exec_ne_illFormed (i : Instr) (s : State) : exec i s ≠ .refused .illFormedConfig := fun h => by
  rcases exec_refused h with h | ⟨op, h⟩ <;> cases h

/-- Everything an event can come to: what an instruction answers, on the state or, where it opens a send, on the state with the send
begun; a refusal of the port's own; or a next state. -/
theorem issue_outcome {e : Input} {s : State} {o : Host.Outcome State Fault Refusal} (h : issue e s = o) :
    (∃ i u, o = exec i u ∧ (u = s ∨ i.opensSend = true)) ∨ (∃ r, o = .refused r ∧ r ≠ .illFormedConfig) ∨ ∃ t, o = .next t := by
  have refuses : ∀ {r}, .refused r = o → r ≠ .illFormedConfig →
      (∃ i u, o = exec i u ∧ (u = s ∨ i.opensSend = true)) ∨ (∃ r, o = .refused r ∧ r ≠ .illFormedConfig) ∨ ∃ t, o = .next t :=
    fun hr hne => .inr (.inl ⟨_, hr.symm, hne⟩)
  cases e with
  | strobe high =>
    simp only [issue, takeTick] at h
    split at h
    · exact .inl ⟨_, s, h.symm, .inl rfl⟩
    · exact .inr (.inr ⟨s, h.symm⟩)
  | host w =>
    simp only [issue, whileHostRuns, issueHost] at h
    split at h
    · split at h
      · exact refuses h Refusal.noConfusion
      · split at h
        · exact .inl ⟨_, s, h.symm, .inl rfl⟩
        · exact refuses h Refusal.noConfusion
    · exact refuses h Refusal.noConfusion
  | micro w =>
    simp only [issue, issueMicro] at h
    split at h
    · exact refuses h Refusal.noConfusion
    · split at h
      · split at h
        · exact .inl ⟨_, s, h.symm, .inl rfl⟩
        · split at h
          · exact .inl ⟨_, beginSend s, h.symm, .inr ‹_›⟩
          · exact refuses h Refusal.noConfusion
      · exact refuses h Refusal.noConfusion
  | endSend =>
    simp only [issue, closeSend] at h
    split at h
    · exact refuses h Refusal.noConfusion
    · split at h
      · exact refuses h Refusal.noConfusion
      · exact .inr (.inr ⟨_, h.symm⟩)
  | store a d =>
    simp only [issue, whileHostRuns] at h
    split at h
    · exact .inr (.inr ⟨_, h.symm⟩)
    · exact refuses h Refusal.noConfusion

/-- No event is refused for the configuration: that is the step's own test. -/
theorem issue_ne_illFormed (e : Input) (s : State) : issue e s ≠ .refused .illFormedConfig := fun h => by
  rcases issue_outcome h with ⟨i, u, hi, -⟩ | ⟨r, hr, hne⟩ | ⟨t, ht⟩
  · exact exec_ne_illFormed i u hi.symm
  · cases hr
    exact hne rfl
  · cases ht

theorem step_illFormed_iff (s : State) : step s = .refused .illFormedConfig ↔ s.cfg.wf = false := by
  refine ⟨fun h => ?_, step_illFormed⟩
  by_contra hwf
  have hwf : s.cfg.wf = true := by simpa using hwf
  cases hin : s.inputs with
  | nil => rw [step_noEvent hwf hin] at h; cases h
  | cons e rest =>
    rw [step_eq_issue hwf hin] at h
    exact issue_ne_illFormed e _ h

/-! ## Words on the ports -/

/-- ENABLE_OUT is the one instruction of its name. -/
theorem eq_enableOut_of_mnemonic {i : Instr} (h : i.mnemonic = "ENABLE_OUT") : ∃ khz, i = .enableOut khz := by
  cases i <;> simp [Instr.mnemonic] at h
  exact ⟨_, rfl⟩

/-- An internal opcode or a strobe is neither public nor reserved (R96). -/
theorem notHostCommand_of_op {i : Instr} (h : ∀ op, (encode i).op = some op → 8 ≤ op ∧ op ≤ 10) :
    (i.isPublic || i.isReserved) = false := by
  cases i <;> simp [encode, Instr.isPublic, Instr.isReserved] at h ⊢

/-- A word whose opcode is internal, or which is a strobe, is refused on the host port, decoded or not. -/
theorem issueHost_internal {s : State} {w : PortWord} (hop : ∀ op, w.op = some op → 8 ≤ op ∧ op ≤ 10) :
    ∃ r, issueHost w s = .refused r ∧ ∀ i, decode s.cfg w = .ok i → r = .notAHostCommand := by
  cases hd : decode s.cfg w with
  | error e => exact ⟨_, issueHost_undecodable hd, fun i hi => by cases hi⟩
  | ok i =>
    obtain ⟨-, hpresents, -⟩ := presents_of_decode hd
    exact ⟨_, issueHost_notAHostCommand hd (notHostCommand_of_op fun op h => hop op (hpresents ▸ h)), fun _ _ => rfl⟩

theorem decode_of_opcode {cfg : Cfg} {w : PortWord} {op : Nat} (hop : w.op = some op) :
    decode cfg w = decodeCommand cfg op w := by
  simp only [decode, hop]

/-- A reserved opcode decodes and refuses, whatever stands on the operand ports (R99). -/
theorem issueHost_reserved {s : State} {w : PortWord} {op : Nat} (hop : w.op = some op) (hres : op = 0 ∨ 11 ≤ op ∧ op ≤ 15) :
    issueHost w s = .refused (.reservedOpcode (BitVec.ofNat 4 op)) := by
  have hop' : op = 0 ∨ op = 11 ∨ op = 12 ∨ op = 13 ∨ op = 14 ∨ op = 15 := by omega
  rcases hop' with rfl | rfl | rfl | rfl | rfl | rfl <;>
    exact (issueHost_runs (decode_of_opcode hop) rfl).trans rfl

/-- An opcode of more than four bits does not decode (log entry 9). -/
theorem decode_opcodeTooWide {cfg : Cfg} {w : PortWord} {op : Nat} (hop : w.op = some op) (h : 16 ≤ op) :
    decode cfg w = .error (.opcodeTooWide op) := by
  obtain ⟨k, rfl⟩ := Nat.exists_eq_add_of_le' h
  exact decode_of_opcode hop

/-! ## The statements -/

/-- Settles O54: a step tests the configuration and nothing else refuses for it; the clauses are those of the two checks. -/
theorem illFormedConfigurationIsRefused : Obligations.IllFormedConfigurationIsRefused := by
  intro s
  rw [step_illFormed_iff, ← Bool.not_eq_true, cfg_wf_iff]
  simp only [profile_wf_iff]

/-- Settles O45. -/
theorem disabledTickIsLost : Obligations.DisabledTickIsLost :=
  fun _ _ _ hwf hoff hin => step_strobe_lost hwf hoff hin

/-- Settles O46, event by event. -/
theorem stepRunsTheDecodedInstruction : Obligations.StepRunsTheDecodedInstruction := by
  intro s w high rest i hwf
  refine ⟨fun hin ho hd hp => ?_, fun hin ho hd hm => ?_, fun hin ho hd hname => ?_, fun hin hon => ?_, step_noEvent hwf⟩
  · rw [step_host hwf ho hin, issueHost_runs (s := { s with inputs := rest }) hd (by simp [hp])]
  · rw [step_micro hwf hin, issueMicro_inSend (s := { s with inputs := rest }) hd hm ho]
  · obtain ⟨khz, rfl⟩ := eq_enableOut_of_mnemonic hname
    rw [step_micro hwf hin, issueMicro_opening (s := { s with inputs := rest }) hd ho]
    rfl
  · rw [step_strobe hwf hon hin, levelOf_eq]

/-- Settles O47: the step is `storeSource`, whose one write is to the host's array. -/
theorem hostStoreWritesItsArray : Obligations.HostStoreWritesItsArray := by
  intro s a d rest hwf ho hin
  refine ⟨_, step_store hwf ho hin, ?_, fun j hj => ?_, fun i => rfl, ?_, ?_, rfl, rfl, ho, rfl⟩
  · simp
  · simp [Memory.read_write_other _ _ hj]
  · simp [State.receiveKept]
  · simp [State.transmitKept]

/-- Settles O48: the host is blocked by the open send, and the invariant says that the tick is off inside one. -/
theorem sendBlocksTheHostAndTheTick : Obligations.SendBlocksTheHostAndTheTick := by
  intro s w a d high rest hinv ho
  obtain ⟨hoff, -⟩ := hinv.inSend ho
  have hblocked : ∀ act, whileHostRuns act { s with inputs := rest } = .refused .hostBlocked :=
    fun act => whileHostRuns_blocked (s := { s with inputs := rest }) ho
  refine ⟨fun hin => ?_, fun hin => ?_, step_strobe_lost hinv.cfgWf hoff⟩
  · exact (step_eq_issue hinv.cfgWf hin).trans (hblocked (issueHost w))
  · exact (step_eq_issue hinv.cfgWf hin).trans (hblocked fun s => .next (storeSource a d s))

/-- Settles O49: inside a send the gate decides, and `endOfSend` says what it gives back. -/
theorem endOfSendGivesTheTimerBack : Obligations.EndOfSendGivesTheTimerBack := by
  intro s rest hwf hin
  have hstep : step s = closeSend { s with inputs := rest } := step_eq_issue hwf hin
  refine ⟨fun prev ho hgate => ?_, fun ho hgate => ?_, fun ho => hstep.trans (closeSend_outside ho)⟩
  · refine ⟨endOfSend prev (leaveSend { s with inputs := rest }), ?_, ?_⟩
    · rw [hstep, closeSend_running (s := { s with inputs := rest }) ho, if_neg (by simp [hgate])]
    · refine ⟨by simp, fun h => ?_, fun h => ?_, by simp, by simp [hgate], by simp, ?_, ?_, by simp, by simp, by simp⟩
      · simp [h]
      · simp [h]
      · simp [State.receiveKept]
      · simp [State.memoriesKept]
  · obtain ⟨prev, hprev⟩ := Option.ne_none_iff_exists'.1 ho
    rw [hstep, closeSend_running (s := { s with inputs := rest }) hprev, if_pos hgate]

/-- Settles O51, each clause by the lemma on its words. -/
theorem hostPortRefusesReservedAndInternal : Obligations.HostPortRefusesReservedAndInternal := by
  intro s w rest hwf ho hin
  rw [step_host hwf ho hin]
  refine ⟨fun op hop hres => issueHost_reserved hop hres, fun op hop hlo hhi => ?_, fun hop => ?_, fun op hop hwide => ?_,
    fun e he => issueHost_undecodable he⟩
  · exact issueHost_internal fun op' hop' => by
      obtain rfl : op = op' := by simpa [hop] using hop'
      exact ⟨hlo, hhi⟩
  · exact issueHost_internal (by simp [hop])
  · exact issueHost_undecodable (decode_opcodeTooWide hop hwide)

/-- Settles O52: the three internal operations are told by their names. -/
theorem sequencerRefusesWhatIsNoSend : Obligations.SequencerRefusesWhatIsNoSend := by
  intro s w rest hwf hin
  rw [step_micro hwf hin]
  refine ⟨fun i hd hname => ?_, fun i hd hname ho => ?_, fun e he => issueMicro_undecodable he⟩
  · have hm : i.isMicro = false := by cases i <;> simp [Instr.mnemonic, Instr.isMicro] at hname ⊢
    exact issueMicro_notAMicroOperation hd hm
  · obtain ⟨hm, hopens⟩ : i.isMicro = true ∧ i.opensSend = false := by
      cases i <;> simp [Instr.mnemonic, Instr.isMicro, Instr.opensSend] at hname ⊢
    exact issueMicro_outsideSend hd hm hopens ho

/-- Settles O53: each arm refuses by name. -/
theorem reservedOpcodesAreRefused : Obligations.ReservedOpcodesAreRefused :=
  fun _ => ⟨rfl, rfl, rfl, rfl, rfl, rfl⟩

end Sys2Proof.Machine

/-! # Ticks and the receiver's commands (40_rx_state_machine.md)

The ticks without an edge, each as an equation; then captures as runs of ticks, and INIT, BLINK, RESUME. -/

namespace Sys2Proof.Machine

/-! ## Ticks without an edge -/

/-- A MARK tick while a mark is timed only counts (R127). -/
theorem tick_mark_counts {s : State} (h : s.rcvstate = .timingMark) (hf : s.rawlen < s.cfg.rawbufCap) :
    actOnLevel .mark (beforeLevel .mark s) = beforeLevel .mark s := by
  simp [actOnLevel, beforeLevel_notFull hf, h]

/-- A SPACE tick while a space is timed counts up to the gap threshold (R128). -/
theorem tick_space_counts {s : State} (h : s.rcvstate = .timingSpace) (hf : s.rawlen < s.cfg.rawbufCap)
    (hc : counted s ≤ s.cfg.gapTicks) : actOnLevel .space (beforeLevel .space s) = beforeLevel .space s := by
  simp [actOnLevel, beforeLevel_notFull hf, h, Nat.not_lt.2 hc]

/-- Beyond the threshold it ends the message (R129). -/
theorem tick_space_ends {s : State} (h : s.rcvstate = .timingSpace) (hf : s.rawlen < s.cfg.rawbufCap)
    (hc : s.cfg.gapTicks < counted s) :
    actOnLevel .space (beforeLevel .space s) = { beforeLevel .space s with rcvstate := .stopped } := by
  simp [actOnLevel, beforeLevel_notFull hf, h, hc]

/-! ## The end of a message -/

/-- The edge after a mark and the SPACE ticks up to the gap threshold (R131 (c)). -/
theorem ticked_space_after_mark {s : State} (hwf : s.cfg.wf = true) (h : s.rcvstate = .timingMark)
    (hroom : s.rawlen + 1 < s.cfg.rawbufCap) :
    (ticked (List.replicate (s.cfg.gapTicks + 1) .space) s).rcvstate = .timingSpace ∧
      (ticked (List.replicate (s.cfg.gapTicks + 1) .space) s).timer = s.cfg.gapTicks ∧
      (ticked (List.replicate (s.cfg.gapTicks + 1) .space) s).rawlen = s.rawlen + 1 := by
  obtain ⟨-, -, hwidth, -⟩ := Cfg.wf_bounds hwf
  rw [List.replicate_succ, ticked_cons, edge_space h (by omega)]
  obtain ⟨hstate, htimer, -, hlen⟩ := ticked_space_run s.cfg.gapTicks
    (s := record s.rawlen .timingSpace (beforeLevel .space s)) rfl (by simpa using hroom) (by simpa using hwidth) (by simp)
  exact ⟨hstate, by simpa using htimer, hlen⟩

/-! ## A capture from IDLE -/

/-- The SPACE ticks of a gap and the first MARK tick start a message of one entry, the gap (R126). -/
theorem capture_starts {s : State} {g : Nat} (hwf : s.cfg.wf = true) (h : s.rcvstate = .idle) (hempty : s.rawlen = 0)
    (hgap : s.cfg.gapTicks ≤ s.timer + g + 1) (hwidth : s.timer + g + 1 < 2 ^ s.cfg.tickW) :
    (ticked (List.replicate g .space ++ [.mark]) s).rcvstate = .timingMark ∧
      (ticked (List.replicate g .space ++ [.mark]) s).timer = 0 ∧
      (ticked (List.replicate g .space ++ [.mark]) s).rawlen = 1 ∧
      capturedEntries (ticked (List.replicate g .space ++ [.mark]) s) = .ok [s.timer + g + 1] := by
  obtain ⟨hcap, -⟩ := Cfg.wf_bounds hwf
  obtain ⟨hidle, htimer, -, hlen⟩ := idle_spaces g h (by omega) (by omega)
  rw [ticked_append]
  generalize hu : ticked (List.replicate g .space) s = u at hidle htimer hlen ⊢
  have hcfg : u.cfg = s.cfg := hu ▸ ticked_cfg _ s
  have hc : counted u = s.timer + g + 1 := by rw [counted_lt (by rw [htimer, hcfg]; exact hwidth), htimer]
  rw [ticked_cons, ticked_nil, tick_idle_mark_captures hidle (by rw [hlen, hcfg]; omega) (by rw [hc, hcfg]; exact hgap)]
  refine ⟨rfl, rfl, rfl, ?_⟩
  have hnone : capturedEntries (beforeLevel .mark u) = .ok [] := capturedEntries_eq_ok.2 (by simp [hlen, hempty])
  simpa [hc, hlen, hempty] using capturedEntries_record hnone .timingMark

/-- A whole capture (R131): the first run goes on from the MARK tick that started it, `ticked_runs` has the others. -/
theorem capture_runs {s : State} {g post : Nat} {runs : List Nat} (hwf : s.cfg.wf = true) (h : s.rcvstate = .idle)
    (hempty : s.rawlen = 0) (hgap : s.cfg.gapTicks ≤ s.timer + g + 1) (hwidth : s.timer + g + 1 < 2 ^ s.cfg.tickW)
    (hodd : runs.length % 2 = 1) (hroom : runs.length + 1 ≤ s.cfg.rawbufCap)
    (hruns : ∀ k n, runs[k]? = some n → 1 ≤ n ∧ (k % 2 = 0 → n < 2 ^ s.cfg.tickW) ∧ (k % 2 = 1 → n ≤ s.cfg.gapTicks + 1))
    (hpost : s.cfg.gapTicks + 2 ≤ post) :
    (ticked (List.replicate g .space ++ levelRuns .mark runs ++ List.replicate post .space) s).rcvstate = .stopped ∧
      capturedEntries (ticked (List.replicate g .space ++ levelRuns .mark runs ++ List.replicate post .space) s) =
        .ok ((s.timer + g + 1) :: runs) := by
  cases runs with
  | nil => simp at hodd
  | cons m ns =>
    obtain ⟨hm, hmark, -⟩ := hruns 0 m rfl
    have hmark := hmark rfl
    obtain ⟨q, rfl⟩ := Nat.exists_eq_add_of_le' hm
    rw [List.length_cons] at hodd hroom
    have hsplit : List.replicate g .space ++ levelRuns .mark ((q + 1) :: ns) ++ List.replicate post .space =
        (List.replicate g .space ++ [.mark]) ++
          (List.replicate q .mark ++ (levelRuns .space ns ++ List.replicate post .space)) := by
      simp [levelRuns, otherLevel, List.replicate_succ]
    rw [hsplit, ticked_append, ticked_append]
    obtain ⟨hstate, htimer, hlen, hcaptured⟩ := capture_starts hwf h hempty hgap hwidth
    generalize hu : ticked (List.replicate g .space ++ [.mark]) s = u at hstate htimer hlen hcaptured ⊢
    have hucfg : u.cfg = s.cfg := hu ▸ ticked_cfg _ s
    obtain ⟨hstate', htimer', hbuf', hlen'⟩ :=
      ticked_mark_run q hstate (by rw [hlen, hucfg]; omega) (by rw [htimer, hucfg]; omega)
    generalize hv : ticked (List.replicate q .mark) u = v at hstate' htimer' hbuf' hlen' ⊢
    have hvcfg : v.cfg = s.cfg := by rw [← hv, ticked_cfg, hucfg]
    have hv0 : v.timer = q := by omega
    have hv1 : v.rawlen = 1 := by omega
    have hrest : ∀ k n, ns[k]? = some n → 1 ≤ n ∧ (k % 2 = 1 → n < 2 ^ v.cfg.tickW) ∧
        (k % 2 = 0 → n ≤ v.cfg.gapTicks + 1) := fun k n hk => by
      obtain ⟨h1, h2, h3⟩ := hruns (k + 1) n (by simpa using hk)
      rw [hvcfg]
      exact ⟨h1, fun hk => h2 (by omega), fun hk => h3 (by omega)⟩
    have := ticked_runs .space ns (es := [s.timer + g + 1]) (post := post) (hvcfg ▸ hwf) hstate'
      ((capturedEntries_congr_buf hlen' hbuf').trans hcaptured) (by rw [hv1, hvcfg]; omega) (by rw [hv0, hvcfg]; exact hmark)
      (by rw [hvcfg]; exact hpost) (by rw [if_neg Level.noConfusion]; omega) (by simpa using hrest)
    simpa [hv0] using this

/-! ## INIT and RESUME -/

/-- The state after INIT (R134). -/
def restart (pin : Pin) (s : State) : State :=
  { s with rxPin := pin, rcvstate := .idle, rawlen := 0, timer := 0, timerMode := .rxTick, rxTickEn := true, txPwmOn := false }

theorem exec_init (pin : Pin) (s : State) : exec (.init pin) s = .next (restart pin s) := rfl

theorem exec_resume (s : State) : exec .resume s = .next (discard s) := rfl

/-- What RESUME leaves alone (R136). -/
theorem discard_kept (s : State) : s.memoriesKept (discard s) ∧ s.transmitKept (discard s) ∧ s.outsideKept (discard s) := by
  refine ⟨?_, ?_, ?_⟩
  · simp [State.memoriesKept]
  · simp [State.transmitKept]
  · simp [State.outsideKept]

/-! ## The statements -/

/-- Settles O4: `LEN_W` is the size in bits of `RAWBUF`. -/
theorem lengthFitsItsRegister : Obligations.LengthFitsItsRegister :=
  fun _ h => ⟨Nat.lt_of_le_of_lt h.length (Nat.lt_size_self _), fun _ hw => Nat.size_le.2 hw⟩

/-- Settles O7: an edge records, the other ticks count, and the count decides whether the message ends. -/
theorem timingTickRecordsOrEndsMessage : Obligations.TimingTickRecordsOrEndsMessage := by
  intro s hf
  refine ⟨fun h => ⟨⟨_, exec_tick .space s, ?_⟩, ⟨_, exec_tick .mark s, ?_⟩⟩,
    fun h => ⟨⟨_, exec_tick .mark s, ?_⟩, ⟨_, exec_tick .space s, ?_⟩⟩⟩
  · rw [edge_space h hf]
    exact ⟨rfl, rfl, rfl, by simp [counted], fun i hi => by simp [Memory.read_write_other _ _ hi]⟩
  · rw [tick_mark_counts h hf]
    simp [beforeLevel_notFull hf, h, counted]
  · rw [edge_mark h hf]
    exact ⟨rfl, rfl, rfl, by simp [counted], fun i hi => by simp [Memory.read_write_other _ _ hi]⟩
  · change _ = (if s.cfg.gapTicks < counted s then _ else _) ∧ _
    rcases Nat.lt_or_ge s.cfg.gapTicks (counted s) with hc | hc
    · rw [tick_space_ends h hf hc, if_pos hc]
      simp [counted]
    · rw [tick_space_counts h hf hc, if_neg (Nat.not_lt.2 hc)]
      simp [beforeLevel_notFull hf, h, counted]

/-- Settles O10: the indicator is step 1 of the tick, and step 4 leaves it alone. -/
theorem indicatorFollowsLevelWhenEnabled : Obligations.IndicatorFollowsLevelWhenEnabled := by
  intro s l
  obtain ⟨-, -, hind, -⟩ := actOnLevel_frame l (beforeLevel l s)
  refine ⟨_, exec_tick l s, fun hon => ?_, fun hoff => ?_⟩
  · simp [hind, indicatorAfter, hon]
  · simp [hind, indicatorAfter, hoff]

/-- Settles O12: one tick more than `ticked_space_after_mark` takes the count beyond the threshold. -/
theorem messageEndsAfterTheGap : Obligations.MessageEndsAfterTheGap := by
  intro s hwf h hroom
  obtain ⟨hstate, htimer, hlen⟩ := ticked_space_after_mark hwf h hroom
  refine ⟨⟨_, runTicks_eq _ s, hstate, htimer⟩, ⟨_, runTicks_eq _ s, ?_⟩⟩
  rw [List.replicate_succ', ticked_append, ticked_cons, ticked_nil]
  have hcfg := ticked_cfg (List.replicate (s.cfg.gapTicks + 1) .space) s
  generalize ticked (List.replicate (s.cfg.gapTicks + 1) .space) s = u at hstate htimer hlen hcfg ⊢
  obtain ⟨-, -, hwidth, -⟩ := Cfg.wf_bounds hwf
  have hc : counted u = s.cfg.gapTicks + 1 := by rw [counted_lt (by rw [htimer, hcfg]; exact hwidth), htimer]
  rw [tick_space_ends hstate (by rw [hlen, hcfg]; exact hroom) (by rw [hc, hcfg]; omega)]
  exact ⟨rfl, by simp [hc], by simp [hlen]⟩

/-- Settles O13, by `capture_runs`. -/
theorem captureRecordsTheRunLengths : Obligations.CaptureRecordsTheRunLengths :=
  fun _ _ _ _ hwf h hempty hgap hwidth hodd hroom hruns hpost =>
    ⟨_, runTicks_eq _ _, capture_runs hwf h hempty hgap hwidth hodd hroom hruns hpost⟩

/-- Settles O14: INIT is one record update, which writes seven fields. -/
theorem initRestartsReception : Obligations.InitRestartsReception :=
  fun s pin => ⟨restart pin s, exec_init pin s, rfl, rfl, rfl, rfl, rfl, rfl, rfl, rfl, rfl, rfl, rfl,
    ⟨fun _ => rfl, fun _ => rfl⟩, rfl, rfl, rfl, rfl, rfl⟩

/-- Settles O15: BLINK is one record update, which writes one field. -/
theorem blinkWritesOnlyTheEnable : Obligations.BlinkWritesOnlyTheEnable :=
  fun _ _ => ⟨_, rfl, rfl, rfl, rfl, rfl, rfl, rfl, ⟨fun _ => rfl, fun _ => rfl⟩, ⟨rfl, rfl, rfl, rfl, rfl⟩,
    rfl, rfl, rfl, rfl, rfl⟩

/-- Settles O16: RESUME is `discard`. -/
theorem resumeDiscardsTheMessage : Obligations.ResumeDiscardsTheMessage :=
  fun s => ⟨discard s, exec_resume s, discard_rcvstate s, discard_rawlen s, discard_timer s, discard_blinkEn s,
    discard_indOut s, discard_rxPin s, discard_kept s⟩

end Sys2Proof.Machine

/-! # The protocol matchers (42_protocol_matchers.md)

The window as an interval, the bits of the accumulator, and the matcher as a condition on the entries by index, from the two loops of
Laws/Match.lean; then the sender's segments through it. -/

namespace Sys2Proof.Machine

/-! ## Windows -/

theorem matchWindow_iff {cfg : Cfg} {k : Level} {m : Nat} {d : Dur} :
    matchWindow cfg k m d = true ↔ windowLo cfg k d ≤ m ∧ m ≤ windowHi cfg k d := by
  simp [matchWindow]

/-- Where the configuration substitutes nothing the window is that of the formula (R181). -/
theorem window_formula {cfg : Cfg} {k : Level} {d : Dur} (h : ∀ w ∈ cfg.windowTable, ¬(w.kind = k ∧ w.us = d)) :
    windowLo cfg k d = formulaLo cfg k d ∧ windowHi cfg k d = formulaHi cfg k d := by
  simp [windowLo, windowHi, substituted_eq_none h]

/-! ## Bits -/

/-- One more bit shifts the others up by one, and the word is cut to `VALUE_W` (R186). -/
theorem testBit_accumulate (cfg : Cfg) (v : Nat) (b : Bool) (i : Nat) :
    (accumulate cfg v b).testBit i = (decide (i < cfg.valueW) && if i = 0 then b else v.testBit (i - 1)) := by
  have hbit : 2 * v + b.toNat = Nat.bit b v := by cases b <;> simp [Nat.bit]
  rw [accumulate, hbit, Nat.testBit_mod_two_pow]
  cases i with
  | zero => simp
  | succ i => simp [Nat.testBit_bit_succ]

/-- The accumulator holds the bits from the last one on, as far as the word goes (R68, R186). -/
theorem testBit_accumulated (cfg : Cfg) (bs : List Bool) (i : Nat) :
    (bs.foldl (accumulate cfg) 0).testBit i =
      (decide (i < bs.length) && decide (i < cfg.valueW) && bs.getD (bs.length - 1 - i) false) := by
  induction bs using List.reverseRecOn generalizing i with
  | nil => simp
  | append_singleton bs b ih =>
    rw [List.foldl_append, List.foldl_cons, List.foldl_nil, testBit_accumulate]
    cases i with
    | zero => simp
    | succ i =>
      have hindex : bs.length - (i + 1) = bs.length - 1 - i := by omega
      rw [if_neg (Nat.succ_ne_zero i), Nat.add_sub_cancel, ih]
      by_cases hi : i < bs.length
      · have hlt : bs.length - 1 - i < bs.length := by omega
        by_cases hw : i + 1 < cfg.valueW
        · simp [hi, hw, Nat.lt_of_succ_lt hw, hindex, hlt, List.getElem?_append_left hlt]
        · simp [hw]
      · simp [hi]

/-! ## The matcher by index -/

theorem getD_drop (es : List Nat) (a j : Nat) : (es.drop a).getD j 0 = es.getD (a + j) 0 := by
  simp [List.getD_eq_getElem?_getD, List.getElem?_drop]

/-- The matcher is the length test, the header test and the loop over the pairs (R185). -/
theorem matchProfile_eq_some {cfg : Cfg} {p : Profile} {es : List Nat} {r : Nat × Nat} :
    matchProfile cfg p es = some r ↔ 1 + p.header.length + 2 ≤ es.length ∧
      (∀ k h, p.header[k]? = some h → matchWindow cfg h.kind (es.getD (1 + k) 0) h.us = true) ∧
      matchPairs cfg p (es.drop (1 + p.header.length)) 0 0 = some r := by
  have hheader : ∀ rest, matchHeader cfg p.header es.tail = some rest ↔ p.header.length ≤ es.tail.length ∧
      rest = es.drop (1 + p.header.length) ∧
      ∀ k h, p.header[k]? = some h → matchWindow cfg h.kind (es.getD (1 + k) 0) h.us = true := fun rest => by
    simp only [matchHeader_iff, ← List.drop_one, List.drop_drop, getD_drop]
  unfold matchProfile
  split_ifs with hshort
  · simp only [false_iff, not_and]
    intro hlong
    omega
  · cases hm : matchHeader cfg p.header es.tail with
    | none =>
      simp only [reduceCtorEq, false_iff, not_and]
      intro hlong hwindows
      have := (hheader _).2 ⟨by simp; omega, rfl, hwindows⟩
      rw [hm] at this
      cases this
    | some rest =>
      obtain ⟨-, rfl, hwindows⟩ := (hheader rest).1 hm
      exact ⟨fun h => ⟨by omega, hwindows, h⟩, fun ⟨_, _, h⟩ => h⟩

/-- The matcher accepts exactly the captures whose entries lie in the windows. -/
theorem matchProfile_iff (cfg : Cfg) (p : Profile) (es : List Nat) (n v : Nat) :
    matchProfile cfg p es = some (n, v) ↔
      1 + p.header.length + 2 ≤ es.length ∧ n = (es.length - 1 - p.header.length) / 2 ∧
      (∀ k h, p.header[k]? = some h → matchWindow cfg h.kind (es.getD (1 + k) 0) h.us = true) ∧
      (∀ j, j < n →
        matchWindow cfg .space (es.getD (1 + p.header.length + 2 * j) 0) p.bitSpaceUs = true ∧
          (matchWindow cfg .mark (es.getD (2 + p.header.length + 2 * j) 0) p.oneMarkUs = true ∨
            matchWindow cfg .mark (es.getD (2 + p.header.length + 2 * j) 0) p.zeroMarkUs = true)) ∧
      v = (List.range n).foldl
            (fun acc j => 2 * acc + (matchWindow cfg .mark (es.getD (2 + p.header.length + 2 * j) 0) p.oneMarkUs).toNat) 0 %
          2 ^ cfg.valueW := by
  have hpairs := matchPairs_iff cfg p (es.drop (1 + p.header.length)) 0 0 n v
  have hmark : ∀ j, 1 + p.header.length + (2 * j + 1) = 2 + p.header.length + 2 * j := fun j => by omega
  simp only [Nat.zero_mod, pairBits, getD_drop, List.length_drop, hmark, Nat.zero_add, ← Nat.sub_sub] at hpairs
  rw [matchProfile_eq_some, hpairs]
  constructor
  · rintro ⟨hlong, hheader, rfl, hwindows, hv⟩
    exact ⟨hlong, rfl, hheader, hwindows, hv⟩
  · rintro ⟨hlong, rfl, hheader, hwindows, hv⟩
    exact ⟨hlong, hheader, rfl, hwindows, hv⟩

/-! ## The segments of a send through the matcher -/

theorem profileSegments_header {cfg : Cfg} {p : Profile} {V W k : Nat} {h : HeaderElem} (hk : p.header[k]? = some h) :
    (profileSegments cfg p V W)[k]? = some (h.kind, h.us) := by
  have hlt : k < p.header.length := (List.getElem?_eq_some_iff.1 hk).1
  rw [profileSegments, List.getElem?_append_left (by simpa using hlt), List.getElem?_map, hk]
  rfl

theorem profileSegments_bits (cfg : Cfg) (p : Profile) (V W k : Nat) :
    (profileSegments cfg p V W)[p.header.length + k]? = (valueSegments cfg p V W)[k]? := by
  rw [profileSegments, List.getElem?_append_right (by simp)]
  simp

/-- In an unambiguous profile a mark in the window of its bit is read as that bit (R189, R194). -/
theorem bit_of_window {cfg : Cfg} {p : Profile} {m : Nat} {b : Bool} (hu : unambiguous cfg p)
    (h : matchWindow cfg .mark m (if b then p.oneMarkUs else p.zeroMarkUs) = true) :
    (matchWindow cfg .mark m p.oneMarkUs = true ∨ matchWindow cfg .mark m p.zeroMarkUs = true) ∧
      matchWindow cfg .mark m p.oneMarkUs = b := by
  cases b with
  | true => exact ⟨.inl h, h⟩
  | false => exact ⟨.inr h, window_exclusive hu h⟩

/-- Entries in the windows of the segments of `W` bits of `V` are accepted with `W` and `V` (R223). -/
theorem matchProfile_of_segments {cfg : Cfg} {p : Profile} {V W : Nat} {es : List Nat} (hu : unambiguous cfg p) (hW : 1 ≤ W)
    (hword : W ≤ cfg.valueW) (hV : V < 2 ^ W) (hlen : es.length = 1 + p.header.length + 2 * W)
    (hwindows : ∀ k g, (profileSegments cfg p V W)[k]? = some g → matchWindow cfg g.1 (es.getD (1 + k) 0) g.2 = true) :
    matchProfile cfg p es = some (W, V) := by
  have hspace : ∀ j < W, matchWindow cfg .space (es.getD (1 + p.header.length + 2 * j) 0) p.bitSpaceUs = true := fun j hj => by
    have := hwindows (p.header.length + 2 * j) _ ((profileSegments_bits ..).trans (valueSegments_get cfg p V W j hj).1)
    simpa [Nat.add_assoc] using this
  have hmark : ∀ j < W, matchWindow cfg .mark (es.getD (2 + p.header.length + 2 * j) 0)
      (if V.testBit (W - 1 - j) then p.oneMarkUs else p.zeroMarkUs) = true := fun j hj => by
    have := hwindows (p.header.length + (2 * j + 1)) _ ((profileSegments_bits ..).trans (valueSegments_get cfg p V W j hj).2)
    have hbit : valueBit cfg V (W - 1 - j) = V.testBit (W - 1 - j) := by simp [valueBit]; omega
    rwa [hbit, show 1 + (p.header.length + (2 * j + 1)) = 2 + p.header.length + 2 * j by omega] at this
  refine (matchProfile_iff cfg p es W V).2 ⟨by omega, by omega, fun k h hk => hwindows k _ (profileSegments_header hk),
    fun j hj => ⟨hspace j hj, (bit_of_window hu (hmark j hj)).1⟩, ?_⟩
  have hfold : (List.range W).foldl (fun acc j =>
      2 * acc + (matchWindow cfg .mark (es.getD (2 + p.header.length + 2 * j) 0) p.oneMarkUs).toNat) 0 =
      (List.range W).foldl (fun acc j => 2 * acc + (V.testBit (0 + W - 1 - j)).toNat) 0 :=
    List.foldl_ext _ _ _ fun acc j hj => by
      rw [(bit_of_window hu (hmark j (List.mem_range.1 hj))).2, Nat.zero_add]
  have hwide : V < 2 ^ cfg.valueW := Nat.lt_of_lt_of_le hV (Nat.pow_le_pow_right (by omega) hword)
  rw [hfold, bits_fold, Nat.pow_zero, Nat.div_one, Nat.mod_eq_of_lt hV, Nat.mod_eq_of_lt hwide]

/-! ## The default profiles -/

/-- The second entry after the gap is a header space of 6000 microseconds for `PROFILE_A`, a bit space of 600 for `PROFILE_B`, and no
number lies in both windows (R192). -/
theorem default_profiles_exclusive {es : List Nat} {a b : Nat × Nat} (ha : matchProfile Cfg.default defaultProfileA es = some a) :
    matchProfile Cfg.default defaultProfileB es ≠ some b := fun hb => by
  obtain ⟨-, -, hheader, -⟩ := (matchProfile_iff ..).1 ha
  obtain ⟨hlong, hn, -, hpairs, -⟩ := (matchProfile_iff ..).1 hb
  have hb1 : defaultProfileB.header.length = 1 := rfl
  obtain ⟨hlo, -⟩ := matchWindow_iff.1 (hheader 1 ⟨.space, 6000⟩ rfl)
  obtain ⟨-, hhi⟩ := matchWindow_iff.1 (hpairs 0 (by omega)).1
  have hgap : windowHi Cfg.default .space defaultProfileB.bitSpaceUs < windowLo Cfg.default .space 6000 := by decide
  exact absurd (Nat.le_trans hlo hhi) (Nat.not_le.2 hgap)

/-! ## The statements -/

/-- Settles O24: the formula where nothing is substituted, else the first entry of the table. -/
theorem windowBoundsAreInclusive : Obligations.WindowBoundsAreInclusive := by
  intro cfg d m
  refine ⟨fun h => ?_, fun h => ?_, fun k h => ?_, fun before w after htable hfirst => ?_⟩
  · obtain ⟨hlo, hhi⟩ := window_formula h
    rw [matchWindow_iff, hlo, hhi]
    rfl
  · obtain ⟨hlo, hhi⟩ := window_formula h
    rw [matchWindow_iff, hlo, hhi]
    rfl
  · obtain ⟨hlo, hhi⟩ := window_formula h
    have hle : windowLo cfg k d ≤ windowHi cfg k d := by
      rw [hlo, hhi]
      exact formulaLo_le_formulaHi cfg k d
    exact ⟨matchWindow_iff.2 ⟨Nat.le_refl _, hle⟩, matchWindow_iff.2 ⟨hle, Nat.le_refl _⟩⟩
  · simp [matchWindow_iff, windowLo, windowHi, substituted_first htable hfirst]

/-- Settles O25: the order of the two tests, and that the windows of an unambiguous profile exclude each other. -/
theorem oneIsTestedBeforeZero : Obligations.OneIsTestedBeforeZero := by
  intro cfg p m
  refine ⟨fun hone => ?_, fun hone hzero => ?_, fun hone hzero => ?_, fun hu hzero => ?_⟩
  · exact classifyMark_eq_some.2 ⟨.inl hone, hone.symm⟩
  · exact classifyMark_eq_some.2 ⟨.inr hzero, hone.symm⟩
  · simp [classifyMark, hone, hzero]
  · exact classifyMark_eq_some.2 ⟨.inr hzero, (window_exclusive hu hzero).symm⟩

/-- Settles O26. -/
theorem matcherAcceptsExactlyTheWindows : Obligations.MatcherAcceptsExactlyTheWindows :=
  matchProfile_iff

/-- Settles O27, by induction on the bits, the last one first. -/
theorem bitsAccumulateMostSignificantFirst : Obligations.BitsAccumulateMostSignificantFirst :=
  testBit_accumulated

/-- Settles O28, by the second entry after the gap. -/
theorem defaultProfilesExcludeEachOther : Obligations.DefaultProfilesExcludeEachOther :=
  fun _ _ _ ha => default_profiles_exclusive ha

/-- Settles O39: the segments are put into the condition of the matcher by index. -/
theorem matcherInvertsTheSender : Obligations.MatcherInvertsTheSender :=
  fun _ _ _ _ _ hu hW hword hV hlen hwindows => matchProfile_of_segments hu hW hword hV hlen hwindows

end Sys2Proof.Machine

/-! # DECODE and what its caller holds (41_decode_engine.md, 20_memory.md section 5)

The answers of the engine on a readable message as equations, what DECODE reads and keeps, and reads through a held reference. -/

namespace Sys2Proof.Machine

/-! ## Answers -/

/-- DECODE returns the result that the engine gives on the message (R163, R164). -/
theorem execDecode_returns {s : State} {es : List Nat} {r : DecodeResult} (h : s.rcvstate = .stopped)
    (he : capturedEntries s = .ok es) (hd : decodeEntries s.cfg es = some r) : execDecode s = .next (returnResult r s) := by
  rw [execDecode_stopped h he, hd]

theorem decodeEntries_profileA {cfg : Cfg} {es : List Nat} {r : Nat × Nat} (ha : matchProfile cfg cfg.profileA es = some r) :
    decodeEntries cfg es = some (acceptedBy cfg cfg.profileA es r) := by
  simp [decodeEntries, ha]

theorem decodeEntries_profileB {cfg : Cfg} {es : List Nat} {r : Nat × Nat} (ha : matchProfile cfg cfg.profileA es = none)
    (hb : matchProfile cfg cfg.profileB es = some r) : decodeEntries cfg es = some (acceptedBy cfg cfg.profileB es r) := by
  simp [decodeEntries, ha, hb]

theorem decodeEntries_unknown {cfg : Cfg} {es : List Nat} (ha : matchProfile cfg cfg.profileA es = none)
    (hb : matchProfile cfg cfg.profileB es = none) (hl : minRaw ≤ es.length) : decodeEntries cfg es = some (unrecognized es) := by
  simp [decodeEntries, ha, hb, hl]

/-- A bit count that fits its field is there as it is (R186). -/
theorem bitCountField_fits {n : Nat} (h : n < 2 ^ 8) (cfg : Cfg) (p : Profile) (es : List Nat) :
    bitCountField cfg p es n = BitVec.ofNat 8 n := if_pos h

/-- DECODE of a message that a profile accepts, the count field the count itself where it fits (R163, R186). -/
theorem execDecode_accepted {s : State} {p : Profile} {es : List Nat} {n v : Nat} (h : s.rcvstate = .stopped)
    (he : capturedEntries s = .ok es) (hd : decodeEntries s.cfg es = some (acceptedBy s.cfg p es (n, v))) :
    ∃ nb : NBits, (n < 2 ^ 8 → nb.toNat = n) ∧
      execDecode s = .next { s with result := some (.ready ⟨p.id, nb, v, .captureSpace, s.rawlen⟩) } := by
  refine ⟨bitCountField s.cfg p es n, fun hn => ?_, ?_⟩
  · rw [bitCountField_fits hn, BitVec.toNat_ofNat, Nat.mod_eq_of_lt hn]
  · rw [execDecode_returns h he hd, acceptedBy, capturedEntries_length he]
    rfl

/-- Every READY result has the length of the message it was made from (R37). -/
theorem decodeEntries_rawlen {cfg : Cfg} {es : List Nat} {d : Decoded} (h : decodeEntries cfg es = some (.ready d)) :
    d.rawlen = es.length := by
  rcases decodeEntries_cases cfg es with ⟨r, -, hr⟩ | ⟨r, -, -, hr⟩ | ⟨-, -, -, hr⟩ | ⟨-, -, -, hr⟩
  · cases h.symm.trans hr
    rfl
  · cases h.symm.trans hr
    rfl
  · cases h.symm.trans hr
    rfl
  · cases h.symm.trans hr

/-- The engine gives no result only on a short message (R164, R165). -/
theorem short_of_decodeEntries {cfg : Cfg} {es : List Nat} (h : decodeEntries cfg es = none) : es.length < minRaw := by
  rcases decodeEntries_cases cfg es with ⟨r, -, hr⟩ | ⟨r, -, -, hr⟩ | ⟨-, -, -, hr⟩ | ⟨-, -, hl, -⟩
  · cases h.symm.trans hr
  · cases h.symm.trans hr
  · cases h.symm.trans hr
  · exact hl

/-- A READY answer comes from STOPPED, from a readable message, and changes nothing but the result. -/
theorem execDecode_ready {s u : State} {d : Decoded} (h : execDecode s = .next u) (hd : u.result = some (.ready d)) :
    s.rcvstate = .stopped ∧ u = returnResult (.ready d) s ∧
      ∃ es, capturedEntries s = .ok es ∧ decodeEntries s.cfg es = some (.ready d) := by
  rcases execDecode_cases h with ⟨-, rfl⟩ | ⟨hs, es, r, he, hr, rfl⟩ | ⟨-, es, -, -, rfl⟩
  · cases hd
  · obtain rfl : r = .ready d := by simpa using hd
    exact ⟨hs, rfl, es, he, hr⟩
  · cases hd

/-! ## What DECODE reads and keeps -/

/-- DECODE completes where every entry of the message holds a value. -/
theorem execDecode_completes {s : State} (hvalid : ∀ i < s.rawlen, ∃ v, s.rawbuf.read i = some v) : ∃ t, execDecode s = .next t := by
  by_cases h : s.rcvstate = .stopped
  · obtain ⟨es, he⟩ := capturedEntries_of_valid hvalid
    cases hd : decodeEntries s.cfg es with
    | some r => exact ⟨_, execDecode_returns h he hd⟩
    | none => exact ⟨_, execDecode_discards h he hd⟩
  · exact ⟨_, execDecode_notStopped h⟩

/-- Two states that agree on what DECODE reads give the same answer (R74, R160). -/
theorem execDecode_agrees {s s' t : State} (hcfg : s'.cfg = s.cfg) (hstate : s'.rcvstate = s.rcvstate)
    (hcaptured : capturedEntries s' = capturedEntries s) (h : execDecode s = .next t) :
    (t = returnResult .notReady s ∧ execDecode s' = .next (returnResult .notReady s')) ∨
      (∃ r, t = returnResult r s ∧ execDecode s' = .next (returnResult r s')) ∨
      (t = returnResult .notReady (discard s) ∧ execDecode s' = .next (returnResult .notReady (discard s'))) := by
  rcases execDecode_cases h with ⟨hs, rfl⟩ | ⟨hs, es, r, he, hr, rfl⟩ | ⟨hs, es, he, hr, rfl⟩
  · exact .inl ⟨rfl, execDecode_notStopped (by rwa [hstate])⟩
  · exact .inr (.inl ⟨r, rfl, execDecode_returns (by rwa [hstate]) (by rwa [hcaptured]) (by rwa [hcfg])⟩)
  · exact .inr (.inr ⟨rfl, execDecode_discards (by rwa [hstate]) (by rwa [hcaptured]) (by rwa [hcfg])⟩)

/-! ## The statements -/

/-- Settles O18: the engine tries A first, and B where A rejects. -/
theorem decodeReportsTheFirstAcceptingProfile : Obligations.DecodeReportsTheFirstAcceptingProfile :=
  fun _ _ _ _ h he => ⟨fun ha => execDecode_accepted h he (decodeEntries_profileA ha),
    fun ha hb => execDecode_accepted h he (decodeEntries_profileB ha hb)⟩

/-- Settles O19. -/
theorem decodeReportsUnknownCapture : Obligations.DecodeReportsUnknownCapture := by
  intro s es h he ha hb hlen
  have hlong : minRaw ≤ es.length := by rwa [capturedEntries_length he]
  rw [exec_decode, execDecode_returns h he (decodeEntries_unknown ha hb hlong), unrecognized, capturedEntries_length he]
  rfl

/-- Settles O21: it completes since every entry holds a value, and each of its three ways is `returnResult`, after `discard` on one. -/
theorem decodeCompletesAndKeepsTheRest : Obligations.DecodeCompletesAndKeepsTheRest := by
  intro s hinv
  obtain ⟨t, ht⟩ := execDecode_completes hinv.valid
  rcases execDecode_cases ht with ⟨hs, rfl⟩ | ⟨hs, es, r, he, hr, rfl⟩ | ⟨hs, es, he, hr, rfl⟩
  · exact ⟨_, .notReady, ht, by simp [State.memoriesKept, State.transmitKept]⟩
  · exact ⟨_, r, ht, by simp [State.memoriesKept, State.transmitKept]⟩
  · have hlen : s.rawlen < 6 := capturedEntries_length he ▸ short_of_decodeEntries hr
    exact ⟨_, .notReady, ht, by simp [State.memoriesKept, State.transmitKept, hs, hlen]⟩

/-- Settles O22, case by case of what DECODE does in the first state. -/
theorem decodeReadsOnlyTheFrozenCapture : Obligations.DecodeReadsOnlyTheFrozenCapture := by
  intro s s' hcfg hstate hlen hbuf t ht
  rcases execDecode_agrees hcfg hstate (capturedEntries_congr hlen hbuf) ht with ⟨rfl, h'⟩ | ⟨r, rfl, h'⟩ | ⟨rfl, h'⟩
  · exact ⟨_, h', rfl, hstate, hlen⟩
  · exact ⟨_, h', rfl, hstate, hlen⟩
  · exact ⟨_, h', rfl, rfl, rfl⟩

/-- Settles O23: the ticks leave what DECODE reads, so the engine gives the same result. -/
theorem stoppedMessageDecodesAgain : Obligations.StoppedMessageDecodesAgain := by
  intro s ls h
  obtain ⟨hstate, hbuf, hlen, -⟩ := ticked_stopped ls h
  refine ⟨_, runTicks_eq ls s, hstate, hlen, hbuf, fun u d hu hd => ?_⟩
  obtain ⟨-, -, es, he, hr⟩ := execDecode_ready hu hd
  have he' : capturedEntries (ticked ls s) = .ok es := (capturedEntries_congr_buf hlen hbuf).trans he
  have hr' : decodeEntries (ticked ls s).cfg es = some (.ready d) := by rwa [ticked_cfg]
  exact ⟨_, execDecode_returns hstate he' hr', rfl, hstate, rfl⟩

/-- Settles O29: neither DECODE nor the ticks touch the message, and the result has its length. -/
theorem referenceReadsTheDecodedMessage : Obligations.ReferenceReadsTheDecodedMessage := by
  intro s u t es d ls h he hu hd ht
  obtain ⟨-, rfl, es', he', hr⟩ := execDecode_ready hu hd
  obtain rfl : es = es' := by simpa using he.symm.trans he'
  have hdlen := decodeEntries_rawlen hr
  obtain ⟨-, hbuf, hlen, -⟩ := ticked_stopped ls (s := returnResult (.ready d) s) h
  obtain rfl : ticked ls (returnResult (.ready d) s) = t := by simpa [runTicks_eq] using ht
  refine ⟨hdlen, fun i v hi => ?_, fun i hi => hostReadRef_past hi⟩
  have hilt : i < es.length := (List.getElem?_eq_some_iff.1 hi).1
  obtain ⟨heslen, hread⟩ := capturedEntries_eq_ok.1 he
  have hlive : memRead s i = .ok v := memRead_eq_ok.2 ⟨by omega, by rw [hread i (by omega), hi]⟩
  rw [hostReadRef_congr _ i hlen hbuf]
  exact hostReadRef_live (by omega) hlive

/-- Settles O30: each clause by what stands in the live buffer. -/
theorem staleReferenceReadsTheLiveBuffer : Obligations.StaleReferenceReadsTheLiveBuffer := by
  intro d s i
  refine ⟨fun v hd hlive hv => ?_, fun hd hstale => hostReadRef_stale hd hstale, fun hs => ?_, fun hd => ?_,
    fun hd hidle hf hgap => ?_, rfl⟩
  · exact hostReadRef_live hd (memRead_eq_ok.2 ⟨hlive, hv⟩)
  · exact ⟨_, execDecode_notStopped hs, rfl, hostReadRef_congr _ i rfl rfl⟩
  · exact ⟨_, exec_resume s, hostReadRef_stale hd (Nat.zero_le i)⟩
  · refine ⟨_, exec_tick .mark s, hostReadRef_live hd (memRead_eq_ok.2 ?_)⟩
    rw [tick_idle_mark_captures hidle hf hgap]
    simp [counted]

end Sys2Proof.Machine

/-! # The sends (43_pulse_sender.md)

ENABLE_OUT and MARK as micro-operations of their own, when a send answers and with which state, and the trace that each send appends. -/

namespace Sys2Proof.Machine

/-! ## ENABLE_OUT and MARK -/

theorem exec_enableOut {khz : Khz} (h : khz ≠ 0) (s : State) : exec (.enableOut khz) s = .next (startCarrier khz s) := if_neg h

theorem exec_enableOut_zero (s : State) : exec (.enableOut 0) s = .refused .zeroCarrier := rfl

theorem exec_mark (d : Dur) (s : State) : exec (.mark d) s = .next (sendMark d s) := rfl

/-- The frame of ENABLE_OUT outside the transmit registers and the shared timer (R213). -/
theorem startCarrier_kept (khz : Khz) (s : State) :
    s.receiveKept (startCarrier khz s) ∧ s.memoriesKept (startCarrier khz s) ∧ s.outsideKept (startCarrier khz s) := by
  refine ⟨?_, ?_, ?_⟩
  · simp [State.receiveKept]
  · simp [State.memoriesKept]
  · simp [State.outsideKept]

/-- The frame of MARK outside the transmit registers (R214). -/
theorem sendMark_kept (d : Dur) (s : State) :
    s.receiveKept (sendMark d s) ∧ s.memoriesKept (sendMark d s) ∧ s.outsideKept (sendMark d s) := by
  refine ⟨?_, ?_, ?_⟩
  · simp [State.receiveKept]
  · simp [State.memoriesKept]
  · simp [State.outsideKept]

/-! ## When a send answers -/

theorem exec_sendRaw {khz : Khz} (h : khz ≠ 0) (buf : Nat) (count : Count) (s : State) :
    exec (.sendRaw buf count khz) s = .next (wholeSend khz (rawSegments .mark (readSource s buf count.toNat)) s) := if_neg h

theorem exec_sendRaw_zero (buf : Nat) (count : Count) (s : State) :
    exec (.sendRaw buf count 0) s = .refused .zeroCarrier := rfl

theorem sendProfile_next {p : Profile} (h : p.carrierKhz ≠ 0) (value : Nat) (nbits : NBits) (s : State) :
    sendProfile p value nbits s = .next (wholeSend p.carrierKhz (profileSegments s.cfg p value nbits.toNat) s) := if_neg h

theorem exec_sendA {s : State} (h : s.cfg.profileA.carrierKhz ≠ 0) (value : Nat) (nbits : NBits) :
    exec (.sendA value nbits) s =
      .next (wholeSend s.cfg.profileA.carrierKhz (profileSegments s.cfg s.cfg.profileA value nbits.toNat) s) :=
  sendProfile_next h value nbits s

theorem exec_sendB {s : State} (h : s.cfg.profileB.carrierKhz ≠ 0) (value : Nat) (nbits : NBits) :
    exec (.sendB value nbits) s =
      .next (wholeSend s.cfg.profileB.carrierKhz (profileSegments s.cfg s.cfg.profileB value nbits.toNat) s) :=
  sendProfile_next h value nbits s

/-! ## Traces -/

/-- What an even and an odd index emit: a mark and a space (R216). -/
theorem rawSegments_trace (khz : Khz) (ds : List Dur) :
    (rawSegments .mark ds).map (segmentOf khz) = ds.mapIdx fun i d => ⟨decide (i % 2 = 0), d, khz⟩ := by
  rw [rawSegments_map]
  rfl

/-- A bit of the value by division (R12, R222). -/
theorem valueBit_iff (cfg : Cfg) (value i : Nat) : valueBit cfg value i = true ↔ i < cfg.valueW ∧ value / 2 ^ i % 2 = 1 := by
  simp [valueBit, Nat.testBit_eq_decide_div_mod_eq]

/-- The segments of the bits, one pair for each, most significant first (R222). -/
theorem valueSegments_trace (cfg : Cfg) (p : Profile) (value n : Nat) :
    (valueSegments cfg p value n).map (segmentOf p.carrierKhz) = (List.range n).flatMap fun j =>
      [⟨false, p.bitSpaceUs, p.carrierKhz⟩,
       ⟨true, if n - 1 - j < cfg.valueW ∧ value / 2 ^ (n - 1 - j) % 2 = 1 then p.oneMarkUs else p.zeroMarkUs,
         p.carrierKhz⟩] := by
  induction n with
  | zero => rfl
  | succ n ih =>
    have hindex : ∀ j, n + 1 - 1 - (j + 1) = n - 1 - j := fun j => by omega
    rw [List.range_succ_eq_map, List.flatMap_cons, List.flatMap_map]
    simp only [hindex, valueSegments, bitSegments, valueBit_iff, List.map_append, List.map_cons, List.map_nil, ih, segmentOf]
    rfl

/-- The segments of a protocol send: its header, then its bits (R222). -/
theorem profileSegments_trace (cfg : Cfg) (p : Profile) (value n : Nat) :
    (profileSegments cfg p value n).map (segmentOf p.carrierKhz) =
      p.header.map (fun h => ⟨decide (h.kind = .mark), h.us, p.carrierKhz⟩) ++
      (List.range n).flatMap fun j =>
        [⟨false, p.bitSpaceUs, p.carrierKhz⟩,
         ⟨true, if n - 1 - j < cfg.valueW ∧ value / 2 ^ (n - 1 - j) % 2 = 1 then p.oneMarkUs else p.zeroMarkUs,
           p.carrierKhz⟩] := by
  rw [profileSegments, List.map_append, valueSegments_trace, List.map_map]
  rfl

/-! ## The statements -/

/-- Settles O31. -/
theorem enableOutTakesTheTimer : Obligations.EnableOutTakesTheTimer :=
  fun s khz => ⟨fun h => ⟨startCarrier khz s, exec_enableOut h s, rfl, rfl, rfl, rfl, rfl, startCarrier_kept khz s⟩,
    exec_enableOut_zero s⟩

/-- Settles O32: the state answered is `sendMark d s`. -/
theorem markTurnsTheGateOn : Obligations.MarkTurnsTheGateOn :=
  fun s d => ⟨sendMark d s, exec_mark d s, sendMark_txPwmOn d s, sendMark_txTrace d s, sendMark_rxTickEn d s,
    sendMark_timerMode d s, sendMark_txKhz d s, sendMark_kept d s⟩

/-- Settles O34: the durations are what the array reads as, and a stored element reads as stored. -/
theorem sendRawEmitsTheArray : Obligations.SendRawEmitsTheArray := by
  intro s buf count khz hk
  refine ⟨_, readSource s buf count.toNat, exec_sendRaw hk buf count s, readSource_length s buf _, fun i d hi hd => ?_, ?_,
    wholeSend_kept khz _ s⟩
  · rw [readSource_getElem? hi, sourceElem_stored hd]
  · rw [wholeSend_txTrace, rawSegments_trace]

/-- Settles O35. -/
theorem sendRawStopsOnlyWithoutACarrier : Obligations.SendRawStopsOnlyWithoutACarrier :=
  fun s buf count _ => ⟨exec_sendRaw_zero buf count s, fun hk => ⟨_, exec_sendRaw hk buf count s⟩⟩

/-- Settles O36: the frame is that of every send, the trace that of the segments of `PROFILE_A`. -/
theorem sendAEmitsHeaderAndBits : Obligations.SendAEmitsHeaderAndBits := by
  intro s value nbits hk
  refine ⟨_, exec_sendA hk value nbits, ?_, wholeSend_kept _ _ s⟩
  rw [wholeSend_txTrace, profileSegments_trace, ← List.append_assoc s.txTrace]

/-- Settles O37: the same with `PROFILE_B`. -/
theorem sendBEmitsHeaderAndBits : Obligations.SendBEmitsHeaderAndBits := by
  intro s value nbits hk
  refine ⟨_, exec_sendB hk value nbits, ?_, wholeSend_kept _ _ s⟩
  rw [wholeSend_txTrace, profileSegments_trace, ← List.append_assoc s.txTrace]

end Sys2Proof.Machine

/-! # The output line (43_pulse_sender.md R220)

A piece of the line has a kind, low or a carrier. Merging joins neighbours of one kind; the line of a trace is the trace seen through
that: no empty piece, no two neighbours of one kind, the same duration, and at every moment the kind of the segment there. -/

namespace Sys2Proof.Machine

/-! ## Kinds of pieces -/

/-- Low, or the carrier of a piece. -/
def LineSeg.kind : LineSeg → Option Khz
  | .low _ => none
  | .carrier _ khz => some khz

/-- What a segment puts on the line. -/
def segmentKind (g : Segment) : Option Khz := if g.on then some g.khz else none

theorem kind_eq_none {p : LineSeg} : p.kind = none ↔ ∃ us, p = .low us := by
  cases p <;> simp [LineSeg.kind]

theorem kind_eq_some {p : LineSeg} {khz : Khz} : p.kind = some khz ↔ ∃ us, p = .carrier us khz := by
  cases p <;> simp [LineSeg.kind]

@[simp] theorem lineSeg_kind (g : Segment) : (lineSeg g).kind = segmentKind g := by
  cases h : g.on <;> simp [lineSeg, segmentKind, LineSeg.kind, h]

@[simp] theorem lineSeg_us (g : Segment) : (lineSeg g).us = g.dur.toNat := by
  cases h : g.on <;> simp [lineSeg, LineSeg.us, h]

/-- A piece put before a line stays a piece of its own before one of another kind, or makes a first piece of its kind longer. -/
theorem mergeInto_kinds (g : LineSeg) (line : List LineSeg) :
    (mergeInto g line = g :: line ∧ ∀ b ∈ line.head?, g.kind ≠ b.kind) ∨
      ∃ a b rest, line = b :: rest ∧ mergeInto g line = a :: rest ∧ a.us = g.us + b.us ∧ a.kind = b.kind ∧ a.kind = g.kind := by
  rcases mergeInto_cases g line with ⟨h, hlow, hcarrier⟩ | ⟨x, y, rest, rfl, rfl, h⟩ | ⟨x, y, k, rest, rfl, rfl, h⟩
  · refine .inl ⟨h, fun b hb hk => ?_⟩
    obtain ⟨rest, rfl⟩ := List.head?_eq_some_iff.1 hb
    cases hg : g.kind with
    | none =>
      obtain ⟨x, hx⟩ := kind_eq_none.1 hg
      obtain ⟨y, rfl⟩ := kind_eq_none.1 (hk ▸ hg)
      exact hlow x y rest ⟨hx, rfl⟩
    | some khz =>
      obtain ⟨x, hx⟩ := kind_eq_some.1 hg
      obtain ⟨y, rfl⟩ := kind_eq_some.1 (hk ▸ hg)
      exact hcarrier x y khz rest ⟨hx, rfl⟩
  · exact .inr ⟨.low (x + y), .low y, rest, rfl, h, rfl, rfl, rfl⟩
  · exact .inr ⟨.carrier (x + y) k, .carrier y k, rest, rfl, h, rfl, rfl, rfl⟩

/-! ## The shape of a line -/

/-- A line as R220 has it: every piece lasts, and neighbours are of unlike kinds. -/
def Merged (line : List LineSeg) : Prop :=
  (∀ p ∈ line, 0 < p.us) ∧ line.IsChain fun a b => a.kind ≠ b.kind

theorem merged_mergeInto {g : LineSeg} {line : List LineSeg} (hg : 0 < g.us) (h : Merged line) : Merged (mergeInto g line) := by
  obtain ⟨hpos, hchain⟩ := h
  rcases mergeInto_kinds g line with ⟨he, hunlike⟩ | ⟨a, b, rest, rfl, he, hus, hkind, -⟩ <;> rw [he]
  · exact ⟨List.forall_mem_cons.2 ⟨hg, hpos⟩, hchain.cons hunlike⟩
  · obtain ⟨-, hrest⟩ := List.forall_mem_cons.1 hpos
    obtain ⟨hhead, htail⟩ := List.isChain_cons.1 hchain
    exact ⟨List.forall_mem_cons.2 ⟨by omega, hrest⟩, htail.cons fun y hy => by rw [hkind]; exact hhead y hy⟩

theorem lineOf_cons_zero {g : Segment} (h : g.dur = 0) (rest : List Segment) : lineOf (g :: rest) = lineOf rest := by
  simp [lineOf, h]

theorem lineOf_cons {g : Segment} (h : g.dur ≠ 0) (rest : List Segment) :
    lineOf (g :: rest) = mergeInto (lineSeg g) (lineOf rest) := by
  rw [lineOf, if_neg h]

theorem dur_pos {d : Dur} (h : d ≠ 0) : 0 < d.toNat :=
  Nat.pos_of_ne_zero fun h0 => h (BitVec.eq_of_toNat_eq h0)

theorem merged_lineOf (trace : List Segment) : Merged (lineOf trace) := by
  induction trace with
  | nil => exact ⟨by simp [lineOf], List.IsChain.nil⟩
  | cons g trace ih =>
    by_cases h : g.dur = 0
    · rwa [lineOf_cons_zero h]
    · rw [lineOf_cons h]
      exact merged_mergeInto (by simpa using dur_pos h) ih

/-- The line lasts as long as the trace. -/
theorem lineLength_lineOf (trace : List Segment) : lineLength (lineOf trace) = traceLength trace := by
  induction trace with
  | nil => rfl
  | cons g trace ih =>
    rw [traceLength_cons, ← ih]
    by_cases h : g.dur = 0
    · simp [lineOf_cons_zero h, h]
    · simp [lineOf_cons h, lineLength_mergeInto]

/-! ## The line at a moment -/

/-- At time `t` the line has a piece of a kind. -/
def KindAt (line : List LineSeg) (t : Nat) (kind : Option Khz) : Prop :=
  ∃ pre piece post, line = pre ++ piece :: post ∧ lineLength pre ≤ t ∧ t < lineLength pre + piece.us ∧ piece.kind = kind

/-- A piece put before a line is there until it ends. -/
theorem kindAt_mergeInto_first {g : LineSeg} {t : Nat} (h : t < g.us) (line : List LineSeg) :
    KindAt (mergeInto g line) t g.kind := by
  rcases mergeInto_kinds g line with ⟨he, -⟩ | ⟨a, b, rest, rfl, he, hus, -, hkind⟩ <;> rw [he]
  · exact ⟨[], g, line, rfl, by simp, by simpa using h, rfl⟩
  · exact ⟨[], a, rest, rfl, by simp, by simp; omega, hkind⟩

/-- What was there at a time is there later by that piece. -/
theorem kindAt_mergeInto_later {line : List LineSeg} {t : Nat} {kind : Option Khz} (h : KindAt line t kind) (g : LineSeg) :
    KindAt (mergeInto g line) (g.us + t) kind := by
  obtain ⟨pre, piece, post, hline, hlo, hhi, hk⟩ := h
  rcases mergeInto_kinds g line with ⟨he, -⟩ | ⟨a, b, rest, hb, he, hus, hkind, -⟩ <;> rw [he]
  · exact ⟨g :: pre, piece, post, by simp [hline], by simp; omega, by simp; omega, hk⟩
  · cases pre with
    | nil =>
      obtain ⟨rfl, rfl⟩ : b = piece ∧ rest = post := by simpa [hb] using hline
      exact ⟨[], a, rest, rfl, by simp, by simp at hhi ⊢; omega, hkind.trans hk⟩
    | cons x pre =>
      obtain ⟨rfl, rfl⟩ : b = x ∧ rest = pre ++ piece :: post := by simpa [hb] using hline
      rw [lineLength_cons] at hlo hhi
      exact ⟨a :: pre, piece, post, rfl, by simp; omega, by simp; omega, hk⟩

/-- At every moment of a segment the line has a piece of its kind. -/
theorem kindAt_lineOf (before after : List Segment) {g : Segment} {x : Nat} (hx : x < g.dur.toNat) :
    KindAt (lineOf (before ++ g :: after)) (traceLength before + x) (segmentKind g) := by
  induction before with
  | nil =>
    have hd : g.dur ≠ 0 := fun h0 => by simp [h0] at hx
    simpa [lineOf_cons hd, traceLength] using kindAt_mergeInto_first (g := lineSeg g) (by simpa using hx) (lineOf after)
  | cons b before ih =>
    rw [List.cons_append, traceLength_cons]
    by_cases h : b.dur = 0
    · simpa [lineOf_cons_zero h, h] using ih
    · simpa [lineOf_cons h, Nat.add_assoc] using kindAt_mergeInto_later ih (lineSeg b)

/-! ## The envelope -/

theorem envelopeAt_append (before rest : List Segment) (x : Nat) :
    envelopeAt (before ++ rest) (traceLength before + x) = envelopeAt rest x := by
  induction before with
  | nil => simp [traceLength]
  | cons b before ih =>
    rw [List.cons_append, traceLength_cons, envelopeAt, if_neg (by omega),
      show b.dur.toNat + traceLength before + x - b.dur.toNat = traceLength before + x by omega, ih]

theorem envelopeAt_past {trace : List Segment} {y : Nat} (h : traceLength trace ≤ y) : envelopeAt trace y = none := by
  induction trace generalizing y with
  | nil => rfl
  | cons g trace ih =>
    rw [traceLength_cons] at h
    rw [envelopeAt, if_neg (by omega), ih (by omega)]

/-! ## The statements -/

/-- Settles O38: the shape of the line by `Merged`, its duration, and its moments by `KindAt`. -/
theorem lineMergesTheTrace : Obligations.LineMergesTheTrace := by
  intro trace
  obtain ⟨hpos, hchain⟩ := merged_lineOf trace
  refine ⟨fun us h => hpos _ h, fun us k h => hpos _ h, fun i a b ha hb => ?_, ?_, fun before after g x htrace hx => ?_,
    fun y hy => envelopeAt_past hy⟩
  · obtain ⟨hi, rfl⟩ := List.getElem?_eq_some_iff.1 ha
    obtain ⟨hi', rfl⟩ := List.getElem?_eq_some_iff.1 hb
    have hunlike := List.isChain_iff_getElem.1 hchain i hi'
    refine ⟨fun x y ⟨hx, hy⟩ => hunlike ?_, fun x y k ⟨hx, hy⟩ => hunlike ?_⟩ <;> rw [hx, hy] <;> rfl
  · rw [← lineLength_lineOf trace, lineLength]
    exact congrArg (fun f => ((lineOf trace).map f).sum) (funext fun g => by cases g <;> rfl)
  · subst htrace
    refine ⟨?_, ?_⟩
    · rw [envelopeAt_append, envelopeAt, if_pos hx]
    · obtain ⟨pre, piece, post, hline, hlo, hhi, hkind⟩ := kindAt_lineOf before after hx
      refine ⟨pre, piece, post, hline, hlo, hhi, fun hon => kind_eq_some.1 ?_, fun hoff => kind_eq_none.1 ?_⟩
      · rw [hkind, segmentKind, if_pos hon]
      · rw [hkind, segmentKind, if_neg (by simp [hoff])]

end Sys2Proof.Machine

/-! # The round trip (43_pulse_sender.md R223, 95_test_vectors.md section 4)

A protocol send whose durations are whole numbers of ticks, sampled, is a stream of alternating runs; the receiver records the run
lengths, and these lie in the windows of the segments. -/

namespace Sys2Proof.Machine

/-- How many ticks each segment lasts. -/
def tickLengths (segs : List (Level × Dur)) : List Nat := segs.map fun g => g.2.toNat / 50

/-- A segment lasts a whole number of ticks, which fits the counter and lies in the segment's own window. -/
def SampledExactly (cfg : Cfg) (g : Level × Dur) : Prop :=
  g.2.toNat % 50 = 0 ∧ 0 < g.2.toNat ∧ g.2.toNat / 50 < 2 ^ cfg.tickW ∧ matchWindow cfg g.1 (g.2.toNat / 50) g.2 = true

/-! ## The stream of a send -/

/-- The trace that a send appends. -/
theorem wholeSend_appended (khz : Khz) (segs : List (Level × Dur)) (s : State) :
    (wholeSend khz segs s).txTrace.drop s.txTrace.length = segs.map (segmentOf khz) ++ [⟨false, 0, khz⟩] := by
  rw [wholeSend_txTrace, List.append_assoc, List.drop_left]

@[simp] theorem segmentOf_dur (khz : Khz) (g : Level × Dur) : (segmentOf khz g).dur = g.2 := rfl

@[simp] theorem segmentLevel_segmentOf (khz : Khz) (g : Level × Dur) : segmentLevel (segmentOf khz g) = g.1 := by
  obtain ⟨_ | _, d⟩ := g <;> rfl

/-- Sampled at any phase below a tick it is the runs of its segments: the closing space of no length has no sample (R223). -/
theorem lineLevels_send {segs : List (Level × Dur)} {phase : Nat} (khz : Khz) (hp : phase < 50)
    (hticks : ∀ g ∈ segs, g.2.toNat % 50 = 0) (halt : alternates .mark segs) :
    lineLevels (segs.map (segmentOf khz) ++ [⟨false, 0, khz⟩]) phase = levelRuns .mark (tickLengths segs) := by
  have hall : ∀ g ∈ segs.map (segmentOf khz) ++ [⟨false, 0, khz⟩], g.dur.toNat % 50 = 0 := fun g hg => by
    rcases List.mem_append.1 hg with hg | hg
    · obtain ⟨x, hx, rfl⟩ := List.mem_map.1 hg
      exact hticks x hx
    · obtain rfl := List.mem_singleton.1 hg
      rfl
  rw [lineLevels_ticks hp hall, tickLengths, ← levelRuns_alternates .mark segs halt]
  simp [List.flatMap_map]

/-- The segments of a protocol send alternate from a mark (R189, R222). -/
theorem alternates_profileSegments {cfg : Cfg} {p : Profile} {excess : Nat} (hp : p.wf excess = true) (V W : Nat) :
    alternates .mark (profileSegments cfg p V W) := by
  obtain ⟨hodd, hkinds, -⟩ := (profile_wf_iff excess p).1 hp
  refine alternates_header .mark p.header _ ((alternatesFrom_iff .mark p.header).2 hkinds) ?_
  rw [if_neg (by omega)]
  exact alternates_value cfg p V W

/-! ## The capture of a send -/

/-- A space of a profile ends before the gap threshold, so it is recorded (R9). -/
theorem space_capturable {cfg : Cfg} {p : Profile} {V W : Nat} {g : Level × Dur} (hp : spacesCapturable cfg p)
    (hg : g ∈ profileSegments cfg p V W) (hspace : g.1 = .space) : windowHi cfg .space g.2 ≤ cfg.gapTicks + 1 := by
  obtain ⟨hbit, hheader⟩ := hp
  rcases mem_profileSegments hg with hg | hg
  · obtain ⟨h, hh, rfl⟩ := List.mem_map.1 hg
    exact hheader h hh hspace
  · simp only [List.mem_cons, List.not_mem_nil, or_false] at hg
    rcases hg with rfl | rfl | rfl
    · exact hbit
    · cases hspace
    · cases hspace

/-- The runs of a send are ones that a capture records (R131): marks fit the counter, spaces end before the gap. -/
theorem tickLengths_recordable {cfg : Cfg} {p : Profile} {V W k n : Nat} (hp : spacesCapturable cfg p)
    (halt : alternates .mark (profileSegments cfg p V W))
    (hexact : ∀ g ∈ profileSegments cfg p V W, SampledExactly cfg g) (hk : (tickLengths (profileSegments cfg p V W))[k]? = some n) :
    1 ≤ n ∧ (k % 2 = 0 → n < 2 ^ cfg.tickW) ∧ (k % 2 = 1 → n ≤ cfg.gapTicks + 1) := by
  rw [tickLengths, List.getElem?_map, Option.map_eq_some_iff] at hk
  obtain ⟨g, hg, rfl⟩ := hk
  have hmem := List.mem_of_getElem? hg
  obtain ⟨hwhole, hpos, hwidth, hwindow⟩ := hexact g hmem
  refine ⟨by omega, fun _ => hwidth, fun hkodd => ?_⟩
  have hspace : g.1 = .space := by rw [alternates_get .mark _ halt k g hg, if_neg (by omega)]; rfl
  rw [hspace] at hwindow
  exact Nat.le_trans (matchWindow_iff.1 hwindow).2 (space_capturable hp hmem hspace)

/-- The recorded runs of a send, after any gap, decode to what was sent (R223). -/
theorem matchProfile_tickLengths {cfg : Cfg} {p : Profile} {V W : Nat} (gap : Nat) (hu : unambiguous cfg p) (hW : 1 ≤ W)
    (hword : W ≤ cfg.valueW) (hV : V < 2 ^ W) (hexact : ∀ g ∈ profileSegments cfg p V W, SampledExactly cfg g) :
    matchProfile cfg p (gap :: tickLengths (profileSegments cfg p V W)) = some (W, V) := by
  refine matchProfile_of_segments hu hW hword hV (by simp [tickLengths]; omega) fun k g hg => ?_
  obtain ⟨-, -, -, hwindow⟩ := hexact g (List.mem_of_getElem? hg)
  simpa [tickLengths, List.getD_eq_getElem?_getD, Nat.add_comm 1 k, hg] using hwindow

/-! ## The statement -/

/-- Settles O40: the stream of the send is alternating runs, the capture records them, and the matcher inverts the sender. -/
theorem sendAThenReceiveRoundTrip : Obligations.SendAThenReceiveRoundTrip := by
  rintro sender sender' receiver V W phase pre post ⟨hwf, -, hcapturable, -⟩ hcfg hu hexact hW hW8 hword hV hroom hphase hidle
    hempty hgap hwidth hpost hsend
  have hp := profileA_wf hwf
  have hexact : ∀ g ∈ profileSegments receiver.cfg receiver.cfg.profileA V W, SampledExactly receiver.cfg g :=
    fun g hg => hexact g (mem_profileSegments hg)
  have halt := alternates_profileSegments (cfg := receiver.cfg) hp V W
  have hnbits : (BitVec.ofNat 8 W : NBits).toNat = W := Nat.mod_eq_of_lt hW8
  rw [exec_sendA (by rw [hcfg]; exact carrier_ne_zero hp), hnbits, hcfg] at hsend
  cases hsend
  obtain ⟨hodd, -⟩ := (profile_wf_iff _ _).1 hp
  have hlen : (tickLengths (profileSegments receiver.cfg receiver.cfg.profileA V W)).length =
      receiver.cfg.profileA.header.length + 2 * W := by simp [tickLengths]
  obtain ⟨hstopped, hcaptured⟩ := capture_runs (post := post) hwf hidle hempty hgap hwidth (by omega) (by omega)
    (fun k n hk => tickLengths_recordable hcapturable halt hexact hk) hpost
  rw [wholeSend_appended, lineLevels_send _ hphase (fun g hg => (hexact g hg).1) halt]
  generalize hheard : ticked _ receiver = heard at hstopped hcaptured
  have hmatch := matchProfile_tickLengths (receiver.timer + pre + 1) hu hW hword hV hexact
  have hheardcfg : heard.cfg = receiver.cfg := hheard ▸ ticked_cfg _ receiver
  rw [← hheardcfg] at hmatch
  refine ⟨heard, _, (runTicks_eq _ _).trans (congrArg _ hheard),
    execDecode_returns hstopped (by rw [hheardcfg]; exact hcaptured) (decodeEntries_profileA hmatch), ?_⟩
  rw [returnResult_result, hheardcfg, acceptedBy, bitCountField_fits hW8, List.length_cons, hlen]
  congr 3
  omega

end Sys2Proof.Machine

/-! # The whole machine (10_state.md, 60_exceptions.md)

What an instruction that answers can do, said once; from it the writers of each field, the growth of the trace and the invariant. Then
what completes, what never faults, and sends as sequences of micro-operations. -/

namespace Sys2Proof.Machine

/-! ## Everything an instruction can do -/

/-- A send that answers has a carrier, and ends where `wholeSend` ends. -/
theorem sendProfile_eq_next {p : Profile} {value : Nat} {nbits : NBits} {s t : State} (h : sendProfile p value nbits s = .next t) :
    p.carrierKhz ≠ 0 ∧ t = wholeSend p.carrierKhz (profileSegments s.cfg p value nbits.toNat) s := by
  unfold sendProfile at h
  split_ifs at h with hk
  cases h
  exact ⟨hk, rfl⟩

theorem exec_sendRaw_eq_next {buf : Nat} {count : Count} {khz : Khz} {s t : State} (h : exec (.sendRaw buf count khz) s = .next t) :
    khz ≠ 0 ∧ t = wholeSend khz (rawSegments .mark (readSource s buf count.toNat)) s := by
  simp only [exec, execSendRaw] at h
  split_ifs at h with hk
  cases h
  exact ⟨hk, rfl⟩

theorem exec_enableOut_eq_next {khz : Khz} {s t : State} (h : exec (.enableOut khz) s = .next t) :
    khz ≠ 0 ∧ t = startCarrier khz s := by
  simp only [exec, execEnableOut] at h
  split_ifs at h with hk
  cases h
  exact ⟨hk, rfl⟩

/-- An instruction that answers is one of the eleven with a meaning, and this is the state it answers; the three sends are one case. -/
theorem exec_cases {i : Instr} {s t : State} (h : exec i s = .next t) :
    (∃ l, i = .tick l ∧ t = actOnLevel l (beforeLevel l s)) ∨
    (∃ pin, i = .init pin ∧ t = restart pin s) ∨
    (∃ en, i = .blink en ∧ t = { s with blinkEn := en }) ∨
    (i = .resume ∧ t = discard s) ∨
    (i = .decode ∧ execDecode s = .next t) ∨
    (i.mnemonic ∈ ["SEND_RAW", "SEND_A", "SEND_B"] ∧ ∃ khz segs, t = wholeSend khz segs s) ∨
    (∃ khz, i = .enableOut khz ∧ t = startCarrier khz s) ∨
    (∃ d, i = .mark d ∧ t = sendMark d s) ∨
    (∃ d, i = .space d ∧ t = sendSpace d s) := by
  cases i with
  | tick l => cases h; exact .inl ⟨l, rfl, rfl⟩
  | init pin => cases h; exact .inr (.inl ⟨pin, rfl, rfl⟩)
  | blink en => cases h; exact .inr (.inr (.inl ⟨en, rfl, rfl⟩))
  | resume => cases h; exact .inr (.inr (.inr (.inl ⟨rfl, rfl⟩)))
  | decode => exact .inr (.inr (.inr (.inr (.inl ⟨rfl, h⟩))))
  | sendRaw buf count khz =>
    exact .inr (.inr (.inr (.inr (.inr (.inl ⟨by simp [Instr.mnemonic], _, _, (exec_sendRaw_eq_next h).2⟩)))))
  | sendA value nbits =>
    exact .inr (.inr (.inr (.inr (.inr (.inl ⟨by simp [Instr.mnemonic], _, _, (sendProfile_eq_next h).2⟩)))))
  | sendB value nbits =>
    exact .inr (.inr (.inr (.inr (.inr (.inl ⟨by simp [Instr.mnemonic], _, _, (sendProfile_eq_next h).2⟩)))))
  | enableOut khz => exact .inr (.inr (.inr (.inr (.inr (.inr (.inl ⟨khz, rfl, (exec_enableOut_eq_next h).2⟩))))))
  | mark d => cases h; exact .inr (.inr (.inr (.inr (.inr (.inr (.inr (.inl ⟨d, rfl, rfl⟩)))))))
  | space d => cases h; exact .inr (.inr (.inr (.inr (.inr (.inr (.inr (.inr ⟨d, rfl, rfl⟩)))))))
  | reserved0000 | reserved1011 | reserved1100 | reserved1101 | reserved1110 | reserved1111 => cases h

/-! ## The writers of each field (R20) -/

/-- Settles O41, instruction by instruction. -/
theorem fieldsHaveOnlyTheirWriters : Obligations.FieldsHaveOnlyTheirWriters := by
  intro i s t h
  rcases exec_cases h with ⟨l, rfl, rfl⟩ | ⟨pin, rfl, rfl⟩ | ⟨en, rfl, rfl⟩ | ⟨rfl, rfl⟩ | ⟨rfl, hd⟩ | ⟨hname, khz, segs, rfl⟩ |
    ⟨khz, rfl, rfl⟩ | ⟨d, rfl, rfl⟩ | ⟨d, rfl, rfl⟩
  · obtain ⟨hcfg, hblink, -, hpin, hen, hmode, hkhz, hgate, htrace, hresult, hsrc, hsend, hinputs⟩ :=
      actOnLevel_frame l (beforeLevel l s)
    simp [Instr.mnemonic, hblink, hpin, hen, hmode, hkhz, hgate, htrace, hresult, hsrc, hsend, hinputs]
  · simp [Instr.mnemonic, restart]
  · simp [Instr.mnemonic]
  · simp [Instr.mnemonic]
  · rcases execDecode_cases hd with ⟨-, rfl⟩ | ⟨-, es, r, -, -, rfl⟩ | ⟨-, es, -, -, rfl⟩ <;> simp [Instr.mnemonic]
  · simp only [List.mem_cons, List.not_mem_nil, or_false] at hname
    rcases hname with hname | hname | hname <;> simp [hname]
  · simp [Instr.mnemonic]
  · simp [Instr.mnemonic]
  · simp [Instr.mnemonic]

/-- No instruction changes the configuration. -/
theorem exec_cfg {i : Instr} {s t : State} (h : exec i s = .next t) : t.cfg = s.cfg := by
  obtain ⟨-, -, -, -, -, -, -, -, -, -, -, -, -, hcfg, -⟩ := fieldsHaveOnlyTheirWriters i s t h
  exact hcfg

/-! ## The trace -/

/-- An instruction only appends to the trace (R212). -/
theorem exec_extends_trace {i : Instr} {s t : State} (h : exec i s = .next t) : ∃ more, t.txTrace = s.txTrace ++ more := by
  rcases exec_cases h with ⟨l, -, rfl⟩ | ⟨pin, -, rfl⟩ | ⟨en, -, rfl⟩ | ⟨-, rfl⟩ | ⟨-, hd⟩ | ⟨-, khz, segs, rfl⟩ |
    ⟨khz, -, rfl⟩ | ⟨d, -, rfl⟩ | ⟨d, -, rfl⟩
  · obtain ⟨-, -, -, -, -, -, -, -, htrace, -⟩ := actOnLevel_frame l (beforeLevel l s)
    exact ⟨[], by simp [htrace]⟩
  · exact ⟨[], by simp [restart]⟩
  · exact ⟨[], by simp⟩
  · exact ⟨[], by simp⟩
  · refine ⟨[], ?_⟩
    rcases execDecode_cases hd with ⟨-, rfl⟩ | ⟨-, es, r, -, -, rfl⟩ | ⟨-, es, -, -, rfl⟩ <;> simp
  · exact ⟨_, by rw [wholeSend_txTrace, List.append_assoc]⟩
  · exact ⟨[], by simp⟩
  · exact ⟨_, sendMark_txTrace d s⟩
  · exact ⟨_, sendSpace_txTrace d s⟩

/-- So does an event (R30). -/
theorem issue_extends_trace {e : Input} {s t : State} (h : issue e s = .next t) :
    (∃ more, t.txTrace = s.txTrace ++ more) ∧ t.cfg = s.cfg := by
  rcases issue_cases h with ⟨l, -, h⟩ | ⟨-, rfl⟩ | ⟨i, -, -, h⟩ | ⟨i, prev, -, -, h⟩ | ⟨khz, -, h⟩ | ⟨prev, -, -, rfl⟩ |
    ⟨a, d, -, rfl⟩
  · exact ⟨exec_extends_trace h, exec_cfg h⟩
  · exact ⟨⟨[], by simp⟩, rfl⟩
  · exact ⟨exec_extends_trace h, exec_cfg h⟩
  · exact ⟨exec_extends_trace h, exec_cfg h⟩
  · exact ⟨exec_extends_trace (s := beginSend s) h, exec_cfg (s := beginSend s) h⟩
  · exact ⟨⟨[], by simp⟩, by simp⟩
  · exact ⟨⟨[], by simp⟩, rfl⟩

/-! ## The invariant -/

theorem reset_inv : State.reset.Inv where
  cfgWf := by decide
  timerWidth := by decide
  rawbufWf := Memory.nil_wf
  srcWf := Memory.nil_wf
  entries := fun _ hx => absurd hx List.not_mem_nil
  valid := fun i hi => absurd hi (Nat.not_lt_zero i)
  length := Nat.zero_le _
  idle := fun _ => rfl
  timingMark := fun h => by cases h
  timingSpace := fun h => by cases h
  stopped := fun h => by cases h
  gap := fun h => absurd h (by decide)
  tickMode := fun h => by cases h
  inSend := fun h => absurd rfl h
  gate := fun _ => rfl

/-- What stands in the list of events is no part of the invariant. -/
theorem inputs_inv {s : State} (h : s.Inv) (es : List Input) : State.Inv { s with inputs := es } :=
  inv_congr h rfl rfl rfl rfl rfl rfl h.tickMode h.inSend h.gate

theorem returnResult_inv {s : State} (h : s.Inv) (r : DecodeResult) : (returnResult r s).Inv :=
  inv_congr h rfl rfl rfl rfl rfl rfl h.tickMode h.inSend h.gate

theorem storeSource_inv {s : State} (h : s.Inv) (a : Nat) (d : Dur) : (storeSource a d s).Inv :=
  { h with srcWf := Memory.write_wf h.srcWf a d }

/-- INIT keeps the invariant outside a send: it discards, and gives the timer to the tick. -/
theorem restart_inv {s : State} (h : s.Inv) (ho : s.openSend = none) (pin : Pin) : (restart pin s).Inv :=
  { discard_inv h with
    timerWidth := Nat.two_pow_pos _
    tickMode := fun _ => ⟨rfl, rfl⟩
    inSend := fun hne => absurd ho hne
    gate := fun _ => rfl }

theorem execDecode_inv {s t : State} (h : s.Inv) (he : execDecode s = .next t) : t.Inv := by
  rcases execDecode_cases he with ⟨-, rfl⟩ | ⟨-, es, r, -, -, rfl⟩ | ⟨-, es, -, -, rfl⟩
  · exact returnResult_inv h _
  · exact returnResult_inv h r
  · exact returnResult_inv (discard_inv h) _

/-- A command of the host keeps the invariant outside a send. -/
theorem exec_public_inv {i : Instr} {s t : State} (hp : i.isPublic = true) (ho : s.openSend = none) (h : s.Inv)
    (he : exec i s = .next t) : t.Inv := by
  rcases exec_cases he with ⟨l, rfl, -⟩ | ⟨pin, -, rfl⟩ | ⟨en, -, rfl⟩ | ⟨-, rfl⟩ | ⟨-, hd⟩ | ⟨-, khz, segs, rfl⟩ |
    ⟨khz, rfl, -⟩ | ⟨d, rfl, -⟩ | ⟨d, rfl, -⟩
  · cases hp
  · exact restart_inv h ho pin
  · exact inv_congr h rfl rfl rfl rfl rfl rfl h.tickMode h.inSend h.gate
  · exact discard_inv h
  · exact execDecode_inv h hd
  · exact wholeSend_inv h khz segs
  · cases hp
  · cases hp
  · cases hp

/-- A micro-operation keeps the invariant inside a send. -/
theorem exec_micro_inv {i : Instr} {s t : State} {prev : Bool} (hm : i.isMicro = true) (ho : s.openSend = some prev) (h : s.Inv)
    (he : exec i s = .next t) : t.Inv := by
  obtain ⟨hoff, hmode⟩ := h.inSend (by simp [ho])
  cases i with
  | enableOut khz =>
    obtain ⟨-, rfl⟩ := exec_enableOut_eq_next he
    exact openSend_inv h rfl rfl rfl rfl rfl rfl rfl rfl ho
  | mark d =>
    cases he
    exact openSend_inv h rfl rfl rfl rfl rfl rfl hoff hmode ho
  | space d =>
    cases he
    exact openSend_inv h rfl rfl rfl rfl rfl rfl hoff hmode ho
  | _ => cases hm

/-- The ENABLE_OUT that begins a send keeps it. -/
theorem opening_inv {khz : Khz} {s t : State} (h : s.Inv) (he : exec (.enableOut khz) (beginSend s) = .next t) : t.Inv := by
  obtain ⟨-, rfl⟩ := exec_enableOut_eq_next he
  exact openSend_inv h rfl rfl rfl rfl rfl rfl rfl rfl rfl

/-- Every event keeps it. -/
theorem issue_inv {e : Input} {s t : State} (h : s.Inv) (he : issue e s = .next t) : t.Inv := by
  rcases issue_cases he with ⟨l, -, he⟩ | ⟨-, rfl⟩ | ⟨i, hp, ho, he⟩ | ⟨i, prev, hm, ho, he⟩ | ⟨khz, -, he⟩ |
    ⟨prev, -, hg, rfl⟩ | ⟨a, d, -, rfl⟩
  · cases he
    exact tick_inv l h
  · exact h
  · exact exec_public_inv hp ho h he
  · exact exec_micro_inv hm ho h he
  · exact opening_inv h he
  · exact endOfSend_inv prev h hg
  · exact storeSource_inv h a d

/-! ## What completes and what faults -/

/-- Every legal instruction answers: DECODE since every entry of the message holds a value, the sends since there is a carrier. -/
theorem exec_completes {s : State} {i : Instr} (h : s.Inv) (hl : i.legal = true) : ∃ t, exec i s = .next t := by
  cases i with
  | init | blink | resume | mark | space | tick => exact ⟨_, rfl⟩
  | decode => exact execDecode_completes h.valid
  | sendRaw buf count khz => exact ⟨_, exec_sendRaw (of_decide_eq_true hl) buf count s⟩
  | enableOut khz => exact ⟨_, exec_enableOut (of_decide_eq_true hl) s⟩
  | sendA value nbits => exact ⟨_, exec_sendA (carrier_ne_zero (profileA_wf h.cfgWf)) value nbits⟩
  | sendB value nbits => exact ⟨_, exec_sendB (carrier_ne_zero (profileB_wf h.cfgWf)) value nbits⟩
  | reserved0000 | reserved1011 | reserved1100 | reserved1101 | reserved1110 | reserved1111 => cases hl

/-- DECODE is the one instruction that can fault (R62); the others that stop refuse. -/
theorem eq_decode_of_fault {i : Instr} {s : State} {f : Fault} (h : exec i s = .fault f) : i = .decode := by
  cases i with
  | decode => rfl
  | sendRaw | enableOut | sendA | sendB =>
    simp only [exec, execSendRaw, execEnableOut, execSendA, execSendB, sendProfile] at h
    split_ifs at h
  | _ => cases h

/-- So an event faults as a DECODE on the state it finds: what begins a send is no DECODE. -/
theorem execDecode_fault_of_issue {e : Input} {s : State} {f : Fault} (h : issue e s = .fault f) : execDecode s = .fault f := by
  rcases issue_outcome h with ⟨i, u, hi, hu⟩ | ⟨r, hr, -⟩ | ⟨t, ht⟩
  · obtain rfl := eq_decode_of_fault hi.symm
    rcases hu with rfl | hopens
    · exact hi.symm
    · cases hopens
  · cases hr
  · cases ht

/-- From a state that meets the invariant no event faults (R250). -/
theorem issue_ne_fault {s : State} (h : s.Inv) (e : Input) (f : Fault) : issue e s ≠ .fault f := fun hf => by
  obtain ⟨t, ht⟩ := execDecode_completes h.valid
  cases ht.symm.trans (execDecode_fault_of_issue hf)

/-! ## The statements -/

/-- Settles O1: field by field, and no entry is below a length of 0. -/
theorem resetHoldsTheTabulatedValues : Obligations.ResetHoldsTheTabulatedValues :=
  ⟨rfl, rfl, rfl, rfl, rfl, rfl, rfl, rfl, fun i => memRead_past (Nat.zero_le i)⟩

/-- Settles O2. -/
theorem resetMeetsTheInvariant : Obligations.ResetMeetsTheInvariant := reset_inv

/-- Settles O3: a step does nothing, or takes an event, and each event keeps the invariant. -/
theorem stepKeepsTheInvariant : Obligations.StepKeepsTheInvariant := by
  intro s t h hstep
  obtain ⟨-, ⟨-, rfl⟩ | ⟨e, rest, -, he⟩⟩ := step_cases hstep
  · exact h
  · exact issue_inv (inputs_inv h rest) he

/-- Settles O42, by the event that the step takes. -/
theorem stepOnlyExtendsTheTrace : Obligations.StepOnlyExtendsTheTrace := by
  intro s t hstep
  obtain ⟨-, ⟨-, rfl⟩ | ⟨e, rest, -, he⟩⟩ := step_cases hstep
  · exact ⟨⟨[], by simp⟩, rfl⟩
  · exact issue_extends_trace (s := { s with inputs := rest }) he

/-- Settles O43. -/
theorem legalInstructionsComplete : Obligations.LegalInstructionsComplete :=
  fun _ _ h hl => exec_completes h hl

/-- Settles O44, by the event that the step takes. -/
theorem stepNeverFaults : Obligations.StepNeverFaults := by
  intro s f h hf
  cases hin : s.inputs with
  | nil => cases (step_noEvent h.cfgWf hin).symm.trans hf
  | cons e rest => exact issue_ne_fault (inputs_inv h rest) e f ((step_eq_issue h.cfgWf hin).symm.trans hf)

/-- Settles O50: each send that answers has a carrier and ends where `wholeSend` ends, and so do its words. -/
theorem sendIsItsMicroOperations : Obligations.SendIsItsMicroOperations := by
  intro s t rest hwf ho
  refine ⟨fun value nbits hin h => ?_, fun value nbits hin h => ?_, fun buf count khz hin h => ?_⟩
  · obtain ⟨hk, rfl⟩ := sendProfile_eq_next h
    exact runSteps_send _ hwf ho hk hin
  · obtain ⟨hk, rfl⟩ := sendProfile_eq_next h
    exact runSteps_send _ hwf ho hk hin
  · obtain ⟨hk, rfl⟩ := exec_sendRaw_eq_next h
    have hrun := runSteps_send _ hwf ho hk hin
    rw [rawSegments_length, readSource_length] at hrun
    exact hrun

end Sys2Proof.Machine
